-- ==== Sys2Proof/Word.lean ====
section
/-! DEFINITION. The byte and the header word (R8, R9, R58). -/

namespace Sys2Proof

/-- R9: an 8-bit unsigned value. -/
abbrev Byte := BitVec 8

/-- R58: the 16-bit header word `hw = byte1 ++ byte0`. -/
abbrev HeaderWord := BitVec 16

end Sys2Proof
end

