-- ==== Sys2Proof/Syntax.lean ====
section
/-! DEFINITION. The instructions: one constructor per row of the header opcode map (R80, spec/opcode_table.json). An
operand is a field of the header word that its row does not fix. -/

namespace Sys2Proof

/-- R80: a frame header, named by its row of the opcode map. `addr` is ADDR, `r` the request/response flag, `len` LEN,
`dp1` data-part-1, `cmd6` the broadcast command (R73 to R75). -/
inductive Instr where
  | data (addr : BitVec 6) (r : BitVec 1) (len : BitVec 5)
  | cfg (addr : BitVec 6) (r : BitVec 1) (len : BitVec 5)
  | data2 (addr : BitVec 6) (r : BitVec 1) (len : BitVec 5)
  | data3 (addr : BitVec 6) (r : BitVec 1) (len : BitVec 5)
  | data4 (addr : BitVec 6) (r : BitVec 1) (len : BitVec 5)
  | data5 (addr : BitVec 6) (r : BitVec 1) (len : BitVec 5)
  | data6 (addr : BitVec 6) (r : BitVec 1) (len : BitVec 5)
  | errResponse (addr : BitVec 6) (len : BitVec 5)
  | errRequest (addr : BitVec 6) (len : BitVec 5)
  | undef0 (r : BitVec 1) (len : BitVec 5) (dp1 : BitVec 3)
  | undef1 (r : BitVec 1) (len : BitVec 5) (dp1 : BitVec 3)
  | gotoGateProtocol (r : BitVec 1) (len : BitVec 5) (dp1 : BitVec 3)
  | broadcastReserved (cmd6 : BitVec 6) (r : BitVec 1) (len : BitVec 5) (dp1 : BitVec 3)
  deriving DecidableEq, Repr

end Sys2Proof
end

