-- ==== Sys2Proof/WellFormed.lean ====
section
/-! DEFINITION. Which instructions are well formed. The widths of the operands are in their types; the one further
condition is that of the reserved broadcast row (R79, R80). -/

namespace Sys2Proof

/-- R79, R223: the broadcast commands 0x02 to 0x3E are the reserved ones. -/
def reservedCmd6 (cmd6 : BitVec 6) : Bool :=
  cmd6 != 0x00#6 && cmd6 != 0x01#6 && cmd6 != 0x3F#6

/-- An instruction is well formed when its words belong to its own row of R80: the reserved row takes only the commands
that no other type-2 row names. -/
def Instr.wf : Instr → Bool
  | .broadcastReserved cmd6 _ _ _ => reservedCmd6 cmd6
  | .data _ _ _ => true
  | .cfg _ _ _ => true
  | .data2 _ _ _ => true
  | .data3 _ _ _ => true
  | .data4 _ _ _ => true
  | .data5 _ _ _ => true
  | .data6 _ _ _ => true
  | .errResponse _ _ => true
  | .errRequest _ _ => true
  | .undef0 _ _ _ => true
  | .undef1 _ _ _ => true
  | .gotoGateProtocol _ _ _ => true

end Sys2Proof
end

