-- ==== Sys2Proof/Decode.lean ====
section
/-! DEFINITION. The decoder from header words to instructions, total on any bytes (R71 to R81), and after it the encoder,
both written from the opcode map of R80. -/

namespace Sys2Proof

/-- R58: `hw = byte1 ++ byte0`. -/
def headerWordOf (b0 b1 : Byte) : HeaderWord := b1 ++ b0

/-- R58: byte0 is hw[7:0]. -/
def headerByte0 (hw : HeaderWord) : Byte := hw.extractLsb' 0 8

/-- R58: byte1 is hw[15:8]. -/
def headerByte1 (hw : HeaderWord) : Byte := hw.extractLsb' 8 8

/-- R73: the header-type flag T, hw[6]. -/
def fieldT (hw : HeaderWord) : BitVec 1 := hw.extractLsb' 6 1

/-- R73: the request/response flag R, hw[7]. -/
def fieldR (hw : HeaderWord) : BitVec 1 := hw.extractLsb' 7 1

/-- R73: the payload length LEN, hw[12:8]. -/
def fieldLen (hw : HeaderWord) : BitVec 5 := hw.extractLsb' 8 5

/-- R74, R75: ADDR of a type-1 header and CMD6 of a type-2 header, hw[5:0]. -/
def fieldLow (hw : HeaderWord) : BitVec 6 := hw.extractLsb' 0 6

/-- R74, R75: CMD of a type-1 header and DP1 of a type-2 header, hw[15:13]. -/
def fieldHigh (hw : HeaderWord) : BitVec 3 := hw.extractLsb' 13 3

/-- R80: the row that a header word matches, tried in the table's order: `(hw & mask) == match`. The last row needs no
test of its own: the nine type-1 rows take every word with T = 0, so what is left has T = 1 and no other type-2 row. -/
def decodeWord (hw : HeaderWord) : Instr :=
  if hw &&& 0xE040#16 = 0x0000#16 then .data (fieldLow hw) (fieldR hw) (fieldLen hw)
  else if hw &&& 0xE040#16 = 0x2000#16 then .cfg (fieldLow hw) (fieldR hw) (fieldLen hw)
  else if hw &&& 0xE040#16 = 0x4000#16 then .data2 (fieldLow hw) (fieldR hw) (fieldLen hw)
  else if hw &&& 0xE040#16 = 0x6000#16 then .data3 (fieldLow hw) (fieldR hw) (fieldLen hw)
  else if hw &&& 0xE040#16 = 0x8000#16 then .data4 (fieldLow hw) (fieldR hw) (fieldLen hw)
  else if hw &&& 0xE040#16 = 0xA000#16 then .data5 (fieldLow hw) (fieldR hw) (fieldLen hw)
  else if hw &&& 0xE040#16 = 0xC000#16 then .data6 (fieldLow hw) (fieldR hw) (fieldLen hw)
  else if hw &&& 0xE0C0#16 = 0xE080#16 then .errResponse (fieldLow hw) (fieldLen hw)
  else if hw &&& 0xE0C0#16 = 0xE000#16 then .errRequest (fieldLow hw) (fieldLen hw)
  else if hw &&& 0x007F#16 = 0x0040#16 then .undef0 (fieldR hw) (fieldLen hw) (fieldHigh hw)
  else if hw &&& 0x007F#16 = 0x0041#16 then .undef1 (fieldR hw) (fieldLen hw) (fieldHigh hw)
  else if hw &&& 0x007F#16 = 0x007F#16 then .gotoGateProtocol (fieldR hw) (fieldLen hw) (fieldHigh hw)
  else .broadcastReserved (fieldLow hw) (fieldR hw) (fieldLen hw) (fieldHigh hw)

/-- Why a list of bytes holds no header. Raised by `decode` alone; safe, the list is refused. -/
inductive DecodeError where
  /-- R70: a header is two bytes, and fewer are there. -/
  | headerTooShort
  deriving DecidableEq, Repr

/-- R57, R71: the header at the front of a byte list, byte0 first, and the bytes after it. Any two bytes decode (R81). -/
def decode : List Byte → Except DecodeError (Instr × List Byte)
  | b0 :: b1 :: rest => .ok (decodeWord (headerWordOf b0 b1), rest)
  | _ => .error .headerTooShort

/-- R74: a type-1 word from CMD, LEN, R and ADDR, with T = 0. -/
def packType1 (cmd : BitVec 3) (len : BitVec 5) (r : BitVec 1) (addr : BitVec 6) : HeaderWord :=
  cmd ++ len ++ r ++ 0#1 ++ addr

/-- R75: a type-2 word from DP1, LEN, R and CMD6, with T = 1. -/
def packType2 (dp1 : BitVec 3) (len : BitVec 5) (r : BitVec 1) (cmd6 : BitVec 6) : HeaderWord :=
  dp1 ++ len ++ r ++ 1#1 ++ cmd6

/-- R80: the header word of an instruction, from its row's pattern. -/
def encode : Instr → HeaderWord
  | .data addr r len => packType1 0#3 len r addr
  | .cfg addr r len => packType1 1#3 len r addr
  | .data2 addr r len => packType1 2#3 len r addr
  | .data3 addr r len => packType1 3#3 len r addr
  | .data4 addr r len => packType1 4#3 len r addr
  | .data5 addr r len => packType1 5#3 len r addr
  | .data6 addr r len => packType1 6#3 len r addr
  | .errResponse addr len => packType1 7#3 len 1#1 addr
  | .errRequest addr len => packType1 7#3 len 0#1 addr
  | .undef0 r len dp1 => packType2 dp1 len r 0x00#6
  | .undef1 r len dp1 => packType2 dp1 len r 0x01#6
  | .gotoGateProtocol r len dp1 => packType2 dp1 len r 0x3F#6
  | .broadcastReserved cmd6 r len dp1 => packType2 dp1 len r cmd6

/-- R57: the two header bytes in wire order, byte0 first. -/
def encodeBytes (i : Instr) : List Byte := [headerByte0 (encode i), headerByte1 (encode i)]

/-- The low `n` bytes of `w` in the opcode table's numbering: bits 7..0 first (spec/opcode_table.json). -/
def tableBytes : Nat → Nat → List Byte
  | 0, _ => []
  | n + 1, w => BitVec.ofNat 8 w :: tableBytes n (w / 256)

/-- The instruction that the decoder reads from a table word: the bits above `nbits` are 0, the bytes stand in wire order,
and a word of more bytes than a header holds is refused (notes/assumptions/9.md). -/
def decodeTableWord (nbits w : Nat) : Option Instr :=
  match decode (tableBytes (max 2 ((nbits + 7) / 8)) (w % 2 ^ nbits)) with
  | .ok (i, []) => some i
  | _ => none

end Sys2Proof
end

