-- ==== Sys2Proof/Config.lean ====
section
/-! DEFINITION. What an implementation fixes (R6, R7) and the one free value: the configuration record as plain data,
the input record of one step (R97), and the inputs that no stimulus lists. -/

namespace Sys2Proof

/-- R6 `HDR_BYTES`. -/
def hdrBytes : Nat := 2

/-- R6 `MAX_L`: the longest payload. -/
def maxPayload : Nat := 31

/-- R6 `BUF_BYTES`: entries of the frame buffer. -/
def bufBytes : Nat := 33

/-- R6 `MAX_FRAME`: header, longest payload and CRC byte. -/
def maxFrame : Nat := 34

/-- R113: the arguments of `crc8Params`. -/
structure CrcParams where
  poly : Byte
  init : Byte
  refin : Bool
  refout : Bool
  xorout : Byte
  deriving DecidableEq, Repr

/-- R111: a CRC triple given whole, `crcStep` and `crcFinal` as the tables of their values: row `c`, column `b` of
`stepRows` is `crcStep c b`, and entry `c` of `finalRow` is `crcFinal c`. Every triple of R7 can be written so. -/
structure CrcTable where
  init : Byte
  stepRows : Vector (Vector Byte 256) 256
  finalRow : Vector Byte 256
  deriving DecidableEq, Repr

/-- R7 parameter `CRC`: an instance of R113, or any triple of functions as tables (notes/assumptions/4.md). -/
inductive Crc where
  | params (p : CrcParams)
  | table (t : CrcTable)
  deriving DecidableEq, Repr

/-- R89: the five module families, in the order of their codes. -/
inductive Family where
  | dio | aio | mioDio | mioAio | ro
  deriving DecidableEq, Repr

/-- R203: the 26 payload schemas, in the order of their ids. -/
inductive SchemaId where
  | dioConfig | dioReqPwm | dioReq | dioCounterResetReq | dioRespCnt | dioResp
  | aioConfig | aioInHalfConfig | aioOutReq | aioResp | aioRawReq | aioRawResp | aioRtdScaleReq | aioRtdScaleResp
  | mioDioConfig | mioDioCalibReq | mioDioReq | mioDioResp
  | mioAioConfig | mioAioReq | mioAioResp
  | roConfig | roTargetReq | roStatusResp | roCountersReq | roCountersResp
  deriving DecidableEq, Repr

/-- R7: the configuration. Entry `i` of `cmdTable` is `CMD_OF` of schema id `i` (R204), entry `i` of `sizeTable` is
`SIZE` of schema id `i` (R205). -/
structure Config where
  timeoutTicks : Nat
  crc : Crc
  cmdTable : Vector (Fin 7) 26
  sizeTable : Vector (BitVec 5) 26
  nChannels : Nat
  deriving DecidableEq, Repr

/-- R97: the input ports, sampled in one step. -/
structure Input where
  rst : Bool
  inValid : Bool
  inByte : Byte
  tick : Bool
  expFam : BitVec 3
  deriving DecidableEq, Repr, Inhabited

/-- The free value of the model (notes/assumptions/1.md): the input of step `n` when no stimulus lists it. It has no
body, so nothing can be proved of it but what holds of every input. -/
opaque Config.freeInput : Nat → Input

end Sys2Proof
end

