-- ==== Sys2Proof/Machine/Header.lean ====
section
/-! DEFINITION. The dual-mode header decoder and the header encoder (41_header.md), with their ports (R100, R101). -/

namespace Sys2Proof.Machine

open Sys2Proof

/-- R130: a decoded type-1 (unicast) header. -/
structure Hdr1 where
  addr : BitVec 6
  r : BitVec 1
  len : BitVec 5
  cmd : BitVec 3
  deriving DecidableEq, Repr

/-- R130: a decoded type-2 (broadcast) header. -/
structure Hdr2 where
  cmd6 : BitVec 6
  r : BitVec 1
  len : BitVec 5
  dp1 : BitVec 3
  deriving DecidableEq, Repr

/-- R130: the two mutually exclusive interpretations. -/
inductive Header where
  | t1 (h : Hdr1)
  | t2 (h : Hdr2)
  deriving DecidableEq, Repr

/-- R130 to R132 `decodeHeader`. -/
def decodeHeader (b0 b1 : Byte) : Header :=
  if b0.extractLsb' 6 1 = 0#1 then
    .t1 { addr := b0.extractLsb' 0 6, r := b0.extractLsb' 7 1, len := b1.extractLsb' 0 5, cmd := b1.extractLsb' 5 3 }
  else
    .t2 { cmd6 := b0.extractLsb' 0 6, r := b0.extractLsb' 7 1, len := b1.extractLsb' 0 5, dp1 := b1.extractLsb' 5 3 }

/-- R80, R130: the decoded header that an instruction's word stands for. -/
def headerOf : Instr → Header
  | .data addr r len => .t1 { addr := addr, r := r, len := len, cmd := 0#3 }
  | .cfg addr r len => .t1 { addr := addr, r := r, len := len, cmd := 1#3 }
  | .data2 addr r len => .t1 { addr := addr, r := r, len := len, cmd := 2#3 }
  | .data3 addr r len => .t1 { addr := addr, r := r, len := len, cmd := 3#3 }
  | .data4 addr r len => .t1 { addr := addr, r := r, len := len, cmd := 4#3 }
  | .data5 addr r len => .t1 { addr := addr, r := r, len := len, cmd := 5#3 }
  | .data6 addr r len => .t1 { addr := addr, r := r, len := len, cmd := 6#3 }
  | .errResponse addr len => .t1 { addr := addr, r := 1#1, len := len, cmd := 7#3 }
  | .errRequest addr len => .t1 { addr := addr, r := 0#1, len := len, cmd := 7#3 }
  | .undef0 r len dp1 => .t2 { cmd6 := 0x00#6, r := r, len := len, dp1 := dp1 }
  | .undef1 r len dp1 => .t2 { cmd6 := 0x01#6, r := r, len := len, dp1 := dp1 }
  | .gotoGateProtocol r len dp1 => .t2 { cmd6 := 0x3F#6, r := r, len := len, dp1 := dp1 }
  | .broadcastReserved cmd6 r len dp1 => .t2 { cmd6 := cmd6, r := r, len := len, dp1 := dp1 }

/-- R134: the length of a decoded header. -/
def Header.len : Header → BitVec 5
  | .t1 h => h.len
  | .t2 h => h.len

/-- R144: the encoder's input; natural numbers, so that a value that does not fit can be presented. -/
inductive HeaderReq where
  | t1 (addr : Nat) (r : BitVec 1) (len cmd : Nat)
  | t2 (cmd6 : Nat) (r : BitVec 1) (len dp1 : Nat)
  deriving DecidableEq, Repr

/-- R144, R92: the encoder's errors. -/
inductive EncErr where
  | lengthOutOfRange
  | fieldOutOfRange
  deriving DecidableEq, Repr

/-- R136, R137: byte0 from its low field, T and R. -/
def packByte0 (low t : Nat) (r : BitVec 1) : Byte :=
  BitVec.ofNat 8 low ||| (BitVec.ofNat 8 t <<< 6) ||| (r.setWidth 8 <<< 7)

/-- R136, R137: byte1 from the length and the high field. -/
def packByte1 (len high : Nat) : Byte := BitVec.ofNat 8 len ||| (BitVec.ofNat 8 high <<< 5)

/-- R136 to R139 `encodeHeader`: the length is checked first, and no field is cut off. -/
def encodeHeader : HeaderReq → Except EncErr (Byte × Byte)
  | .t1 addr r len cmd =>
    if 31 < len then .error .lengthOutOfRange
    else if 63 < addr ∨ 7 < cmd then .error .fieldOutOfRange
    else .ok (packByte0 addr 0 r, packByte1 len cmd)
  | .t2 cmd6 r len dp1 =>
    if 31 < len then .error .lengthOutOfRange
    else if 63 < cmd6 ∨ 7 < dp1 then .error .fieldOutOfRange
    else .ok (packByte0 cmd6 1 r, packByte1 len dp1)

/-- R146: the request with its length replaced. -/
def HeaderReq.withLen : HeaderReq → Nat → HeaderReq
  | .t1 addr r _ cmd, n => .t1 addr r n cmd
  | .t2 cmd6 r _ dp1, n => .t2 cmd6 r n dp1

/-- R141: a decoded header as a request for the encoder. -/
def Header.toReq : Header → HeaderReq
  | .t1 h => .t1 h.addr.toNat h.r h.len.toNat h.cmd.toNat
  | .t2 h => .t2 h.cmd6.toNat h.r h.len.toNat h.dp1.toNat

/-- R100: the outputs of the header decoder port. -/
structure HdPort where
  hdT : BitVec 1
  hdR : BitVec 1
  hdLen : BitVec 5
  hdAddr : BitVec 6
  hdCmd1 : BitVec 3
  hdCmd2 : BitVec 6
  hdDp1 : BitVec 3
  deriving DecidableEq, Repr

/-- R100, R133: each field group is driven only under its own type. -/
def hdPort (hdIn : HeaderWord) : HdPort :=
  { hdT := fieldT hdIn
    hdR := fieldR hdIn
    hdLen := fieldLen hdIn
    hdAddr := if fieldT hdIn = 0#1 then fieldLow hdIn else 0#6
    hdCmd1 := if fieldT hdIn = 0#1 then fieldHigh hdIn else 0#3
    hdCmd2 := if fieldT hdIn = 1#1 then fieldLow hdIn else 0#6
    hdDp1 := if fieldT hdIn = 1#1 then fieldHigh hdIn else 0#3 }

/-- R92: the code of an encoder error on `he_err`. -/
def EncErr.code : EncErr → BitVec 2
  | .lengthOutOfRange => 1#2
  | .fieldOutOfRange => 2#2

/-- R101: the outputs of the header encoder port. -/
structure HePort where
  heOut : HeaderWord
  heErr : BitVec 2
  deriving DecidableEq, Repr

/-- R101: the request that the encoder port's 8-bit inputs make. -/
def heRequest (heT heR : BitVec 1) (heLen heF0 heF1 : Byte) : HeaderReq :=
  if heT = 0#1 then .t1 heF0.toNat heR heLen.toNat heF1.toNat
  else .t2 heF0.toNat heR heLen.toNat heF1.toNat

/-- R101, R138: the header encoder port; `he_out` is 0 when `he_err` is not. -/
def hePort (heT heR : BitVec 1) (heLen heF0 heF1 : Byte) : HePort :=
  match encodeHeader (heRequest heT heR heLen heF0 heF1) with
  | .ok (b0, b1) => { heOut := headerWordOf b0 b1, heErr := 0#2 }
  | .error e => { heOut := 0#16, heErr := e.code }

end Sys2Proof.Machine
end

