-- ==== Sys2Proof/Machine/Crc.lean ====
section
/-! DEFINITION. The CRC-8 validator (40_crc.md): the parameterised instance, the fold, the check, and the condition that a
configuration must meet (R112). -/

namespace Sys2Proof

open Sys2Proof

/-- R9: bit i of the byte moves to bit 7-i. -/
def rev8 (b : Byte) : Byte :=
  (List.range 8).foldl (fun acc i => acc ||| (((b >>> i) &&& 1#8) <<< (7 - i))) 0#8

/-- R113: one of the eight iterations. -/
def crcShift (poly x : Byte) : Byte := if x.msb then (x <<< 1) ^^^ poly else x <<< 1

/-- R113 `crcStep`. -/
def CrcParams.step (p : CrcParams) (c b : Byte) : Byte :=
  (crcShift p.poly)^[8] (c ^^^ (if p.refin then rev8 b else b))

/-- R113 `crcFinal`. -/
def CrcParams.final (p : CrcParams) (c : Byte) : Byte := (if p.refout then rev8 c else c) ^^^ p.xorout

/-- Entry `i` of a table of 256. -/
def tableAt {α : Type} (v : Vector α 256) (i : Byte) : α := v[i.toNat]'(i.isLt)

/-- R111 `crcStep` of a tabulated triple. -/
def CrcTable.step (t : CrcTable) (c b : Byte) : Byte := tableAt (tableAt t.stepRows c) b

/-- R111 `crcFinal` of a tabulated triple. -/
def CrcTable.final (t : CrcTable) (c : Byte) : Byte := tableAt t.finalRow c

/-- R7 `CRC_INIT`. -/
def Crc.init : Crc → Byte
  | .params p => p.init
  | .table t => t.init

/-- R7 `crcStep`. -/
def Crc.step : Crc → Byte → Byte → Byte
  | .params p => p.step
  | .table t => t.step

/-- R7 `crcFinal`. -/
def Crc.final : Crc → Byte → Byte
  | .params p => p.final
  | .table t => t.final

/-- R111: the CRC register after the bytes of a list, from `c`. -/
def Crc.fold (crc : Crc) (c : Byte) (bs : List Byte) : Byte := bs.foldl crc.step c

/-- R111 `crc8`, which is also R118 `compute`. -/
def Crc.crc8 (crc : Crc) (bs : List Byte) : Byte := crc.final (crc.fold crc.init bs)

/-- R117 `validate`: the last byte is the CRC of those before it. -/
def Crc.validate (crc : Crc) (fr : List Byte) : Bool :=
  decide (1 ≤ fr.length) && crc.crc8 fr.dropLast == fr.getLastD 0#8

/-- R112: `bs` with bit `j` of byte `i` inverted. -/
def flipBit (bs : List Byte) (i j : Nat) : List Byte := bs.modify i fun b => b ^^^ (1#8 <<< j)

/-- R112: every single-bit error in 2 to 33 covered bytes changes the CRC. -/
def Crc.DetectsSingleBit (crc : Crc) : Prop :=
  ∀ (bs : List Byte) (i j : Nat), 2 ≤ bs.length → bs.length ≤ 33 → i < bs.length → j < 8 →
    crc.crc8 (flipBit bs i j) ≠ crc.crc8 bs

/-- Every byte value, for a check over all of them. -/
def allBytes : List Byte := (List.range 256).map (BitVec.ofNat 8)

/-- The eight one-bit patterns that an error of R112 can add to a byte. -/
def oneBits : List Byte := (List.range 8).map fun j => 1#8 <<< j

/-- A relation between CRC register values, as a table. -/
abbrev PairTable := Vector (Vector Bool 256) 256

/-- The table of a relation. -/
def pairTable (f : Byte → Byte → Bool) : PairTable :=
  Vector.ofFn fun p => Vector.ofFn fun q => f (BitVec.ofFin p) (BitVec.ofFin q)

/-- The pairs of register values whose final values differ. -/
def CrcTable.apart (t : CrcTable) : PairTable := pairTable fun p q => t.final p != t.final q

/-- From the pairs kept apart by every run of at most k bytes, those kept apart by every run of at most k + 1. -/
def CrcTable.apartNext (t : CrcTable) (d : PairTable) : PairTable :=
  pairTable fun p q =>
    t.final p != t.final q && allBytes.all fun b => tableAt (tableAt d (t.step p b)) (t.step q b)

/-- The register values that runs of `k` bytes reach from `CRC_INIT`. -/
def CrcTable.reach (t : CrcTable) : Nat → Vector Bool 256
  | 0 => Vector.ofFn fun c => BitVec.ofFin c == t.init
  | k + 1 =>
    let r := t.reach k
    Vector.ofFn fun c => allBytes.any fun p => tableAt r p && allBytes.any fun b => t.step p b == BitVec.ofFin c

/-- Whether every one-bit error in byte `i`, from a register value that `i` bytes reach, gives a pair satisfying `ok`. -/
def CrcTable.errorsAt (t : CrcTable) (i : Nat) (ok : Byte → Byte → Bool) : Bool :=
  let r := t.reach i
  allBytes.all fun c => !tableAt r c ||
    allBytes.all fun b => oneBits.all fun e => ok (t.step c b) (t.step c (b ^^^ e))

/-- Errors in byte `i`, then in the bytes before it: `d` keeps apart the pairs that at most 32 - i further bytes keep
apart. An error in byte 0 is asked about only with a byte after it, since R112 begins at two bytes. -/
def CrcTable.scan (t : CrcTable) : Nat → PairTable → Bool
  | 0, d => t.errorsAt 0 fun p q => allBytes.all fun b => tableAt (tableAt d (t.step p b)) (t.step q b)
  | i + 1, d =>
    (t.errorsAt (i + 1) fun p q => tableAt (tableAt d p) q) && t.scan i (if i = 0 then d else t.apartNext d)

/-- R112 decided for a tabulated triple (notes/assumptions/4.md). -/
def CrcTable.detects (t : CrcTable) : Bool := t.scan 32 t.apart

/-- R112 as a check. For an instance of R113 it is a nonzero polynomial (R113, R119, notes/assumptions/4.md). -/
def Crc.wf : Crc → Bool
  | .params p => p.poly != 0#8
  | .table t => t.detects

/-- R114: the spec's default instance, generator x^8 + 1. -/
def Crc.default : Crc := .params ⟨0x01#8, 0x00#8, false, false, 0x00#8⟩

end Sys2Proof
end

