-- ==== Sys2Proof/Machine/Registry.lean ====
section
/-! DEFINITION. The payload schema registry (20_memory.md R53 to R56, 43_dispatch.md R203 to R208) and the conditions on a
configuration (R112, R204, R205, R207, R262). -/

namespace Sys2Proof

/-- R89: the code of a family. -/
def Family.code : Family → BitVec 3
  | .dio => 0#3
  | .aio => 1#3
  | .mioDio => 2#3
  | .mioAio => 3#3
  | .ro => 4#3

/-- R89, R224: the family of a code on `exp_fam`; codes 5, 6 and 7 are no family. -/
def famOf (fc : BitVec 3) : Option Family :=
  if fc = 0#3 then some .dio
  else if fc = 1#3 then some .aio
  else if fc = 2#3 then some .mioDio
  else if fc = 3#3 then some .mioAio
  else if fc = 4#3 then some .ro
  else none

/-- R203: the schema ids in order. -/
def SchemaId.all : List SchemaId :=
  [.dioConfig, .dioReqPwm, .dioReq, .dioCounterResetReq, .dioRespCnt, .dioResp,
    .aioConfig, .aioInHalfConfig, .aioOutReq, .aioResp, .aioRawReq, .aioRawResp, .aioRtdScaleReq, .aioRtdScaleResp,
    .mioDioConfig, .mioDioCalibReq, .mioDioReq, .mioDioResp,
    .mioAioConfig, .mioAioReq, .mioAioResp,
    .roConfig, .roTargetReq, .roStatusResp, .roCountersReq, .roCountersResp]

/-- R203, column id. -/
def SchemaId.id : SchemaId → Fin 26
  | .dioConfig => 0 | .dioReqPwm => 1 | .dioReq => 2 | .dioCounterResetReq => 3 | .dioRespCnt => 4 | .dioResp => 5
  | .aioConfig => 6 | .aioInHalfConfig => 7 | .aioOutReq => 8 | .aioResp => 9 | .aioRawReq => 10 | .aioRawResp => 11
  | .aioRtdScaleReq => 12 | .aioRtdScaleResp => 13
  | .mioDioConfig => 14 | .mioDioCalibReq => 15 | .mioDioReq => 16 | .mioDioResp => 17
  | .mioAioConfig => 18 | .mioAioReq => 19 | .mioAioResp => 20
  | .roConfig => 21 | .roTargetReq => 22 | .roStatusResp => 23 | .roCountersReq => 24 | .roCountersResp => 25

/-- R203, column family. -/
def SchemaId.fam : SchemaId → Family
  | .dioConfig | .dioReqPwm | .dioReq | .dioCounterResetReq | .dioRespCnt | .dioResp => .dio
  | .aioConfig | .aioInHalfConfig | .aioOutReq | .aioResp | .aioRawReq | .aioRawResp | .aioRtdScaleReq
  | .aioRtdScaleResp => .aio
  | .mioDioConfig | .mioDioCalibReq | .mioDioReq | .mioDioResp => .mioDio
  | .mioAioConfig | .mioAioReq | .mioAioResp => .mioAio
  | .roConfig | .roTargetReq | .roStatusResp | .roCountersReq | .roCountersResp => .ro

/-- R203, column dir, as the R bit of R77: 0 is a request and 1 a response. -/
def SchemaId.dir : SchemaId → BitVec 1
  | .dioRespCnt | .dioResp | .aioResp | .aioRawResp | .aioRtdScaleResp | .mioDioResp | .mioAioResp | .roStatusResp
  | .roCountersResp => 1#1
  | .dioConfig | .dioReqPwm | .dioReq | .dioCounterResetReq | .aioConfig | .aioInHalfConfig | .aioOutReq | .aioRawReq
  | .aioRtdScaleReq | .mioDioConfig | .mioDioCalibReq | .mioDioReq | .mioAioConfig | .mioAioReq | .roConfig
  | .roTargetReq | .roCountersReq => 0#1

/-- R204: the config schema of a family (ids 0, 6, 14, 18 and 21). -/
def Family.configSchema : Family → SchemaId
  | .dio => .dioConfig
  | .aio => .aioConfig
  | .mioDio => .mioDioConfig
  | .mioAio => .mioAioConfig
  | .ro => .roConfig

/-- R204 `CMD_OF`. -/
def Config.cmdOf (cfg : Config) (s : SchemaId) : Fin 7 := cfg.cmdTable[s.id]

/-- R205 `SIZE`. -/
def Config.size (cfg : Config) (s : SchemaId) : BitVec 5 := cfg.sizeTable[s.id]

/-- R206, R207: whether schema `s` sits at the key (family code, direction, command). -/
def Config.hasKey (cfg : Config) (fam : BitVec 3) (dir : BitVec 1) (cmd : BitVec 3) (s : SchemaId) : Bool :=
  s.fam.code == fam && s.dir == dir && (cfg.cmdOf s).val == cmd.toNat

/-- R206 `REGISTRY`. The first schema found at the key is the unique one of R207 in every configuration that is not
refused. -/
def Config.registry (cfg : Config) (fam : BitVec 3) (dir : BitVec 1) (cmd : BitVec 3) :
    Option (SchemaId × BitVec 5) :=
  if 5 ≤ fam.toNat ∨ cmd = 7#3 then none
  else (SchemaId.all.find? (cfg.hasKey fam dir cmd)).map fun s => (s, cfg.size s)

/-- R54: a registry entry as an 11-bit word, `valid` in bit 10, the schema id in 9:5, the size in 4:0. -/
def romWord : Option (SchemaId × BitVec 5) → BitVec 11
  | none => 0#11
  | some (s, size) => 1#1 ++ BitVec.ofNat 5 s.id.val ++ size

/-- R53: the ROM address `fam ++ dir ++ cmd`. -/
def romAddress (fam : BitVec 3) (dir : BitVec 1) (cmd : BitVec 3) : BitVec 7 := fam ++ dir ++ cmd

/-- R55 `RomRead(a)`. -/
def Config.romRead (cfg : Config) (a : BitVec 7) : BitVec 11 :=
  romWord (cfg.registry (a.extractLsb' 4 3) (a.extractLsb' 3 1) (a.extractLsb' 0 3))

/-- R208 `lookup(f, cmd, dir)`. -/
def Config.lookup (cfg : Config) (f : Family) (cmd : BitVec 3) (dir : BitVec 1) : Option (SchemaId × BitVec 5) :=
  cfg.registry f.code dir cmd

/-- R207: a schema's key as one number. -/
def Config.keyOf (cfg : Config) (s : SchemaId) : Nat :=
  s.fam.code.toNat * 16 + s.dir.toNat * 8 + (cfg.cmdOf s).val

/-- No number stands twice in the list. -/
def distinct : List Nat → Bool
  | [] => true
  | k :: ks => !ks.contains k && distinct ks

/-- R204: the five config schemas sit at command 1. -/
def Config.configsAtOne (cfg : Config) : Bool :=
  [Family.dio, .aio, .mioDio, .mioAio, .ro].all fun f => (cfg.cmdOf f.configSchema).val == 1

/-- R205: the four sizes that the source gives. -/
def Config.sizesAsGiven (cfg : Config) : Bool :=
  cfg.size .mioDioConfig == 21#5 && cfg.size .roTargetReq == 1#5 && cfg.size .aioRawReq == 0#5 &&
    cfg.size .roCountersReq == 0#5

/-- What R7 asks of a configuration: R112 of the CRC, R204 and R207 of `CMD_OF`, R205 of `SIZE`, R262 of `N_CHANNELS`. -/
def Config.wf (cfg : Config) : Bool :=
  cfg.crc.wf && distinct (SchemaId.all.map cfg.keyOf) && cfg.configsAtOne && cfg.sizesAsGiven &&
    decide (1 ≤ cfg.nChannels)

end Sys2Proof
end

