-- ==== Sys2Proof/Machine/Event.lean ====
section
/-! DEFINITION. The result events and the event output port (R91, R99). -/

namespace Sys2Proof.Machine

open Sys2Proof

/-- R99, R240: the error kinds of the receive path. LENGTH_OUT_OF_RANGE has no constructor: no step emits it (R247). -/
inductive ErrKind where
  | crcMismatch
  | timeout
  | unknownCommand
  | sizeMismatch
  deriving DecidableEq, Repr

/-- R99, R228: an event with what it carries. -/
inductive Event where
  | okUnicast (h : Hdr1) (fam : Family) (schema : SchemaId) (payload raw : List Byte)
  | okBroadcast (h : Hdr2) (payload raw : List Byte)
  | moduleError (h : Hdr1) (payload raw : List Byte)
  | err (kind : ErrKind) (addr : Option (BitVec 6)) (raw : List Byte)
  deriving DecidableEq, Repr

/-- R91: the code of an error kind. -/
def ErrKind.code : ErrKind → BitVec 3
  | .crcMismatch => 3#3
  | .timeout => 4#3
  | .unknownCommand => 5#3
  | .sizeMismatch => 6#3

/-- R91: the code of an event's kind. -/
def Event.kindCode : Event → BitVec 3
  | .okUnicast _ _ _ _ _ => 0#3
  | .okBroadcast _ _ _ => 1#3
  | .moduleError _ _ _ => 2#3
  | .err k _ _ => k.code

/-- R99: the raw bytes an event reports. -/
def Event.raw : Event → List Byte
  | .okUnicast _ _ _ _ raw => raw
  | .okBroadcast _ _ raw => raw
  | .moduleError _ _ raw => raw
  | .err _ _ raw => raw

/-- R99: the module address an event names. -/
def Event.addr : Event → Option (BitVec 6)
  | .okUnicast h _ _ _ _ => some h.addr
  | .okBroadcast _ _ _ => none
  | .moduleError h _ _ => some h.addr
  | .err _ addr _ => addr

/-- R99: the family code on `ev_fam`, 0 but for OK_UNICAST. -/
def Event.famCode : Event → BitVec 3
  | .okUnicast _ fam _ _ _ => fam.code
  | .okBroadcast _ _ _ => 0#3
  | .moduleError _ _ _ => 0#3
  | .err _ _ _ => 0#3

/-- R99: the schema id on `ev_schema`, 0 but for OK_UNICAST. -/
def Event.schemaCode : Event → BitVec 5
  | .okUnicast _ _ schema _ _ => BitVec.ofNat 5 schema.id.val
  | .okBroadcast _ _ _ => 0#5
  | .moduleError _ _ _ => 0#5
  | .err _ _ _ => 0#5

/-- R99: raw byte i at bits [8i+7:8i], the bits beyond the last byte 0. -/
def packRaw : List Byte → BitVec 272
  | [] => 0#272
  | b :: bs => (packRaw bs <<< 8) ||| b.setWidth 272

/-- R99: the event output port. -/
structure EventPort where
  evValid : Bool
  evKind : BitVec 3
  evN : BitVec 6
  evRaw : BitVec 272
  evAddrV : Bool
  evAddr : BitVec 6
  evFam : BitVec 3
  evSchema : BitVec 5
  deriving DecidableEq, Repr

/-- R99: the port fields as a function of the event; all 0 when there is none. -/
def eventPort : Option Event → EventPort
  | none =>
    { evValid := false, evKind := 0#3, evN := 0#6, evRaw := 0#272, evAddrV := false, evAddr := 0#6, evFam := 0#3,
      evSchema := 0#5 }
  | some e =>
    { evValid := true, evKind := e.kindCode, evN := BitVec.ofNat 6 e.raw.length, evRaw := packRaw e.raw,
      evAddrV := e.addr.isSome, evAddr := e.addr.getD 0#6, evFam := e.famCode, evSchema := e.schemaCode }

end Sys2Proof.Machine
end

