-- ==== Sys2Proof/Machine/Fixture.lean ====
section
/-! DEFINITION. The configuration that State.reset names: the fixture of 95_test_vectors.md section 0, which the spec calls a
test configuration and no claim about the real protocol (notes/assumptions/3.md, DESIGN CHOICE). -/

namespace Sys2Proof

/-- 95_test_vectors section 0, column `CMD_OF`, by schema id. -/
def fixtureCmds : Vector (Fin 7) 26 :=
  #v[1, 2, 0, 3, 2, 0, 1, 3, 0, 0, 2, 2, 4, 4, 1, 2, 0, 0, 1, 0, 0, 1, 0, 0, 2, 2]

/-- 95_test_vectors section 0, column `SIZE`, by schema id. -/
def fixtureSizes : Vector (BitVec 5) 26 :=
  #v[8, 18, 2, 2, 30, 4, 24, 20, 4, 12, 0, 16, 6, 6, 21, 5, 2, 3, 28, 8, 16, 4, 1, 1, 0, 31]

/-- The fixture with the default CRC of R114, the threshold 3 of programs P1, P2 and P4, and one channel. -/
def Config.fixture : Config :=
  { timeoutTicks := 3, crc := Crc.default, cmdTable := fixtureCmds, sizeTable := fixtureSizes, nChannels := 1 }

end Sys2Proof
end

