-- ==== Sys2Proof/Machine/Memory.lean ====
section
/-! DEFINITION. The frame buffer (R22, R50, R52) as a list of (index, byte) cells in one canonical form: indices strictly
rising and no cell equal to what an unlisted index reads as (notes/assumptions/5.md). -/

namespace Sys2Proof.Machine

/-- R50: the byte-addressed frame buffer. -/
abbrev Memory := List Host.Cell

/-- R22: what an index with no cell reads as, the cleared value. -/
def Memory.unlisted : Byte := 0x00#8

/-- R10 `buf[i]`. -/
def Memory.read : Memory → Nat → Byte
  | [], _ => Memory.unlisted
  | (a, v) :: m, i => if a = i then v else Memory.read m i

/-- R10 `buf[i] <- v`. Writing the unlisted value removes the cell, so that equal buffers are equal lists. -/
def Memory.write : Memory → Nat → Byte → Memory
  | [], i, v => if v = Memory.unlisted then [] else [(i, v)]
  | (a, w) :: m, i, v =>
    if i < a then (if v = Memory.unlisted then (a, w) :: m else (i, v) :: (a, w) :: m)
    else if i = a then (if v = Memory.unlisted then m else (i, v) :: m)
    else (a, w) :: Memory.write m i v

/-- R50: bulk clearing to 0x00. -/
def Memory.clear : Memory := []

/-- Every cell's index is at least `n`. -/
def Memory.fromIndex (n : Nat) (m : Memory) : Bool := m.all fun c => decide (n ≤ c.1)

/-- R22: every cell's index is below `n`, so that every entry from `n` on holds 0x00. -/
def Memory.below (m : Memory) (n : Nat) : Bool := m.all fun c => decide (c.1 < n)

/-- The canonical form: indices strictly rising, no cell holding the unlisted value. -/
def Memory.wf : Memory → Bool
  | [] => true
  | (a, v) :: m => v != Memory.unlisted && Memory.fromIndex (a + 1) m && Memory.wf m

/-- R9 `buf[0..n-1]`: the first `n` bytes, in arrival order. -/
def Memory.bytes (m : Memory) (n : Nat) : List Byte := (List.range n).map (Memory.read m)

end Sys2Proof.Machine
end

