-- ==== Sys2Proof/Machine/Regs.lean ====
section
/-! DEFINITION. The architectural registers of one core instance (R20) and the two register states that the transitions
name (42_assembler.md, before section 1). -/

namespace Sys2Proof.Machine

open Sys2Proof

/-- R21: the assembler states. Code 11 has no constructor. -/
inductive Fsm where
  | idle
  | recv
  | tmo
  deriving DecidableEq, Repr

/-- R20: the state record of one core instance. `buf` is the frame buffer (R22), `cnt` the length accumulator (R23), `crc`
the CRC accumulator (R24), `tmr` the timeout clock (R25). -/
structure Regs where
  st : Fsm
  buf : Memory
  cnt : Nat
  crc : Byte
  tmr : Nat
  deriving DecidableEq, Repr

/-- R21: the 2-bit code of a state. -/
def Fsm.code : Fsm → BitVec 2
  | .idle => 0#2
  | .recv => 1#2
  | .tmo => 2#2

/-- R34, 42_assembler `idleState`. -/
def idleRegs (cfg : Config) : Regs :=
  { st := .idle, buf := Memory.clear, cnt := 0, crc := cfg.crc.init, tmr := 0 }

/-- R161, 42_assembler `firstByte(b)`: a new frame holding its first byte. -/
def firstByteRegs (cfg : Config) (b : Byte) : Regs :=
  { st := .recv, buf := Memory.write Memory.clear 0 b, cnt := 1, crc := cfg.crc.step cfg.crc.init b, tmr := 0 }

end Sys2Proof.Machine
end

