-- ==== Sys2Proof/Machine/State.lean ====
section
/-! DEFINITION. The machine state, the reasons for which a step can stop, and the state after reset. -/

namespace Sys2Proof.Machine

open Sys2Proof

/-- The machine state. `regs` is the complete register set of the core (R20, R28). The other fields stand here because the
host's step takes a state and nothing else: `cfg` is the configuration, which no step changes (R7, R31, R36); `event` is the
event port in the step that led here (R99); `inputs` are the inputs still to come, one a step, and `stepNo` is the number of
the next step (R93, notes/assumptions/1.md, 2.md, 7.md). -/
structure State where
  cfg : Config
  regs : Regs
  event : Option Event
  inputs : List Input
  stepNo : Nat
  deriving DecidableEq, Repr

/-- The faults of the model. -/
inductive Fault where
  /-- R50, R61: an access to a frame buffer index of 33 or more, which does not exist. Raised by the append of R166 and by
  the reports of R170 and R171, in states that break R27 and so are never reached. Safe (notes/assumptions/5.md). -/
  | bufferRange
  deriving DecidableEq, Repr

/-- The refusals of the model. -/
inductive Refusal where
  /-- An instruction whose meaning is not written yet. Raised by an arm of exec alone. Safe. -/
  | notModelled (mnemonic : String)
  /-- R112, R204, R205, R207, R262, R273: a configuration that a model refuses. Raised by every step under such a
  configuration. Safe (notes/assumptions/8.md). -/
  | illFormedConfig
  deriving DecidableEq, Repr

/-- R34, R270: the state right after reset under a given configuration, with the inputs to come. -/
def State.resetWith (cfg : Config) (inputs : List Input) : State :=
  { cfg := cfg, regs := idleRegs cfg, event := none, inputs := inputs, stepNo := 0 }

/-- R34: the machine right after reset. The configuration is the model's choice (notes/assumptions/3.md). -/
def State.reset : State := State.resetWith Config.fixture []

end Sys2Proof.Machine
end

