-- ==== Sys2Proof/Machine/Operands.lean ====
section
/-! DEFINITION. What a step reads: this step's inputs (R97), the byte index and the declared length (R164, R26), the
header of the frame held, the raw bytes, the payload and the recorded address. -/

namespace Sys2Proof.Machine

open Sys2Proof

/-- R97: the input of this step: the next of the stimulus, or a free value past its end (notes/assumptions/1.md). -/
def State.input (s : State) : Input :=
  match s.inputs with
  | [] => Config.freeInput s.stepNo
  | i :: _ => i

/-- R73, R26: the declared length in a header byte1. -/
def lenOfByte1 (b1 : Byte) : Nat := (b1.extractLsb' 0 5).toNat

/-- R164: the declared length, from the arriving byte when it is byte1 and from the buffer otherwise. -/
def declaredLen (g : Regs) (b : Byte) : Nat :=
  if g.cnt = 1 then lenOfByte1 b else lenOfByte1 (g.buf.read 1)

/-- R165: whether the arriving byte completes the frame. -/
def completes (g : Regs) (b : Byte) : Bool :=
  decide (2 ≤ g.cnt) && decide (g.cnt = declaredLen g b + 2)

/-- R58, R98: the header word of the frame held, `buf[1] ++ buf[0]`. -/
def heldHeader (g : Regs) : HeaderWord := headerWordOf (g.buf.read 0) (g.buf.read 1)

/-- R170: the bytes of the frame held, `buf[0..cnt-1]`. -/
def heldBytes (g : Regs) : List Byte := g.buf.bytes g.cnt

/-- R167: the raw bytes of the frame that this step's byte completes. -/
def State.raw (s : State) : List Byte := heldBytes s.regs ++ [s.input.inByte]

/-- R99, R200: the payload of a raw frame, `raw[2 .. n-2]`. -/
def payloadOf (raw : List Byte) : List Byte := (raw.drop 2).take (raw.length - 3)

/-- R242: the address recorded with an error. -/
def addrOf (raw : List Byte) : Option (BitVec 6) :=
  match raw with
  | [] => none
  | b0 :: _ => if b0.extractLsb' 6 1 = 0#1 then some (b0.extractLsb' 0 6) else none

end Sys2Proof.Machine
end

