-- ==== Sys2Proof/Machine/Flags.lean ====
section
/-! DEFINITION. What a step decides from the registers: the CRC check (R117), the timer and its expiry (R163, R168), and
the derived indications of the status port (R30, R98). The core has no flag register (R30). -/

namespace Sys2Proof.Machine

open Sys2Proof

/-- R117 `crcOk`, in the step that brings the CRC byte. -/
def State.crcOk (s : State) : Bool := s.cfg.crc.final s.regs.crc == s.input.inByte

/-- R163: the timer after a RECV step that does not complete the frame. -/
def timerNext (cfg : Config) (tmr : Nat) (tick : Bool) : Nat :=
  if tick then min (tmr + 1) (cfg.timeoutTicks + 1) else tmr

/-- R168: the next assembler state, TMO when the timer exceeds the threshold. -/
def expiry (cfg : Config) (tmr : Nat) : Fsm := if cfg.timeoutTicks < tmr then .tmo else .recv

/-- R30, R98 `busy`. -/
def busy (g : Regs) : Bool := g.st != .idle

/-- R30, R98 `hdr_valid`. -/
def hdrValid (g : Regs) : Bool := (g.st == .recv || g.st == .tmo) && decide (2 ≤ g.cnt)

/-- R98: the status output port. -/
structure StatusPort where
  stO : BitVec 2
  cntO : BitVec 6
  busy : Bool
  hdrValid : Bool
  hdrO : HeaderWord
  deriving DecidableEq, Repr

/-- R98: the status port as a function of the registers. -/
def statusPort (g : Regs) : StatusPort :=
  { stO := g.st.code, cntO := BitVec.ofNat 6 g.cnt, busy := busy g, hdrValid := hdrValid g, hdrO := heldHeader g }

end Sys2Proof.Machine
end

