-- ==== Sys2Proof/Machine/Ops.lean ====
section
/-! DEFINITION. The operations that the transitions and the meanings share: ending a step, raising an error event (the
core's taking of an exception, R241) and delivering a frame, both with the return to IDLE (R254), and the two dispatch
paths of R200. -/

namespace Sys2Proof.Machine

open Sys2Proof

/-- R11: the end of a step: the next registers, this step's event, and the input consumed. -/
def State.finish (s : State) (next : Regs) (ev : Option Event) : State :=
  { s with regs := next, event := ev, inputs := s.inputs.tail, stepNo := s.stepNo + 1 }

/-- R241: raising an error on receive. The event records the kind, the address and the raw bytes; `next` holds none of the
frame's bytes: it is idleState, or the first byte of a new frame for TIMEOUT (R170). Nothing else is saved. -/
def raiseError (kind : ErrKind) (addr : Option (BitVec 6)) (raw : List Byte) (next : Regs) (s : State) : State :=
  s.finish next (some (.err kind addr raw))

/-- R254, R167: the return to IDLE, with the event of a frame that is delivered. -/
def deliver (ev : Event) (s : State) : State := s.finish (idleRegs s.cfg) (some ev)

/-- R200: the first branch of the multiplexer, and the state `valid` when the CRC byte is right. -/
def ifCrcOk (s : State) (valid : State) : State :=
  if s.crcOk then valid
  else raiseError .crcMismatch (addrOf s.raw) s.raw (idleRegs s.cfg) s

/-- R200, R245: UNKNOWN_COMMAND in the completion step. -/
def unknownCommand (addr : Option (BitVec 6)) (s : State) : State :=
  raiseError .unknownCommand addr s.raw (idleRegs s.cfg) s

/-- R211: the unicast registry path of R200, for a type-1 header with command 0 to 6. -/
def dispatchUnicast (h : Hdr1) (s : State) : State :=
  match famOf s.input.expFam with
  | none => unknownCommand (some h.addr) s
  | some f =>
    match s.cfg.lookup f h.cmd h.r with
    | none => unknownCommand (some h.addr) s
    | some (schema, size) =>
      if h.len = size then deliver (.okUnicast h f schema (payloadOf s.raw) s.raw) s
      else raiseError .sizeMismatch (some h.addr) s.raw (idleRegs s.cfg) s

/-- R220: the broadcast path of R200: no lookup, no size check. -/
def dispatchBroadcast (h : Hdr2) (s : State) : State := deliver (.okBroadcast h (payloadOf s.raw) s.raw) s

end Sys2Proof.Machine
end

