-- ==== Sys2Proof/Machine/Broadcast.lean ====
section
/-! DEFINITION. The broadcast commands (R220 to R223): three delivered with their payload, all others reserved. `exp_fam`
and R are not interpreted. -/

namespace Sys2Proof.Machine

open Sys2Proof

/-- R220 UNDEF0. -/
def execUndef0 (r : BitVec 1) (len : BitVec 5) (dp1 : BitVec 3) (s : State) : Host.Outcome State Fault Refusal :=
  .next (ifCrcOk s (dispatchBroadcast { cmd6 := 0x00#6, r := r, len := len, dp1 := dp1 } s))

/-- R221 UNDEF1. -/
def execUndef1 (r : BitVec 1) (len : BitVec 5) (dp1 : BitVec 3) (s : State) : Host.Outcome State Fault Refusal :=
  .next (ifCrcOk s (dispatchBroadcast { cmd6 := 0x01#6, r := r, len := len, dp1 := dp1 } s))

/-- R222 GOTO_GATE_PROTOCOL. -/
def execGotoGateProtocol (r : BitVec 1) (len : BitVec 5) (dp1 : BitVec 3) (s : State) :
    Host.Outcome State Fault Refusal :=
  .next (ifCrcOk s (dispatchBroadcast { cmd6 := 0x3F#6, r := r, len := len, dp1 := dp1 } s))

/-- R223: a reserved broadcast command: UNKNOWN_COMMAND with no address; the 61 values behave alike. -/
def execBroadcastReserved (_cmd6 : BitVec 6) (_r : BitVec 1) (_len : BitVec 5) (_dp1 : BitVec 3) (s : State) :
    Host.Outcome State Fault Refusal :=
  .next (ifCrcOk s (unknownCommand none s))

end Sys2Proof.Machine
end

