-- ==== Sys2Proof/Machine/ErrFrame.lean ====
section
/-! DEFINITION. The type-1 frames with CMD 7 (R218, R219): a module's error response, and the request that is no legal
frame. Neither looks at the registry, the length or `exp_fam`. -/

namespace Sys2Proof.Machine

open Sys2Proof

/-- R218 ERR response: MODULE_ERROR with the raw payload. -/
def execErrResponse (addr : BitVec 6) (len : BitVec 5) (s : State) : Host.Outcome State Fault Refusal :=
  .next (ifCrcOk s
    (deliver (.moduleError { addr := addr, r := 1#1, len := len, cmd := 7#3 } (payloadOf s.raw) s.raw) s))

/-- R219 ERR request: UNKNOWN_COMMAND with the address, whatever the length. -/
def execErrRequest (addr : BitVec 6) (_len : BitVec 5) (s : State) : Host.Outcome State Fault Refusal :=
  .next (ifCrcOk s (unknownCommand (some addr) s))

end Sys2Proof.Machine
end

