-- ==== Sys2Proof/Machine/Unicast.lean ====
section
/-! DEFINITION. The unicast registry commands, CMD 0 to 6 (R211 to R217). Each is stated for the completion step of its
frame: the CRC test first (R200), then the registry path with its own command id. -/

namespace Sys2Proof.Machine

open Sys2Proof

/-- R211 DATA. -/
def execData (addr : BitVec 6) (r : BitVec 1) (len : BitVec 5) (s : State) : Host.Outcome State Fault Refusal :=
  .next (ifCrcOk s (dispatchUnicast { addr := addr, r := r, len := len, cmd := 0#3 } s))

/-- R212 CFG. -/
def execCfg (addr : BitVec 6) (r : BitVec 1) (len : BitVec 5) (s : State) : Host.Outcome State Fault Refusal :=
  .next (ifCrcOk s (dispatchUnicast { addr := addr, r := r, len := len, cmd := 1#3 } s))

/-- R213 DATA2. -/
def execData2 (addr : BitVec 6) (r : BitVec 1) (len : BitVec 5) (s : State) : Host.Outcome State Fault Refusal :=
  .next (ifCrcOk s (dispatchUnicast { addr := addr, r := r, len := len, cmd := 2#3 } s))

/-- R214 DATA3. -/
def execData3 (addr : BitVec 6) (r : BitVec 1) (len : BitVec 5) (s : State) : Host.Outcome State Fault Refusal :=
  .next (ifCrcOk s (dispatchUnicast { addr := addr, r := r, len := len, cmd := 3#3 } s))

/-- R215 DATA4. -/
def execData4 (addr : BitVec 6) (r : BitVec 1) (len : BitVec 5) (s : State) : Host.Outcome State Fault Refusal :=
  .next (ifCrcOk s (dispatchUnicast { addr := addr, r := r, len := len, cmd := 4#3 } s))

/-- R216 DATA5. -/
def execData5 (addr : BitVec 6) (r : BitVec 1) (len : BitVec 5) (s : State) : Host.Outcome State Fault Refusal :=
  .next (ifCrcOk s (dispatchUnicast { addr := addr, r := r, len := len, cmd := 5#3 } s))

/-- R217 DATA6. -/
def execData6 (addr : BitVec 6) (r : BitVec 1) (len : BitVec 5) (s : State) : Host.Outcome State Fault Refusal :=
  .next (ifCrcOk s (dispatchUnicast { addr := addr, r := r, len := len, cmd := 6#3 } s))

end Sys2Proof.Machine
end

