-- ==== Sys2Proof/Machine/Dispatch.lean ====
section
/-! DEFINITION. One arm per row of the header opcode map (R80). -/

namespace Sys2Proof.Machine

open Sys2Proof

def exec (i : Instr) (s : State) : Host.Outcome State Fault Refusal :=
  match i with
  | .data addr r len => Sys2Proof.Machine.execData addr r len s
  | .cfg addr r len => Sys2Proof.Machine.execCfg addr r len s
  | .data2 addr r len => Sys2Proof.Machine.execData2 addr r len s
  | .data3 addr r len => Sys2Proof.Machine.execData3 addr r len s
  | .data4 addr r len => Sys2Proof.Machine.execData4 addr r len s
  | .data5 addr r len => Sys2Proof.Machine.execData5 addr r len s
  | .data6 addr r len => Sys2Proof.Machine.execData6 addr r len s
  | .errResponse addr len => Sys2Proof.Machine.execErrResponse addr len s
  | .errRequest addr len => Sys2Proof.Machine.execErrRequest addr len s
  | .undef0 r len dp1 => Sys2Proof.Machine.execUndef0 r len dp1 s
  | .undef1 r len dp1 => Sys2Proof.Machine.execUndef1 r len dp1 s
  | .gotoGateProtocol r len dp1 => Sys2Proof.Machine.execGotoGateProtocol r len dp1 s
  | .broadcastReserved cmd6 r len dp1 => Sys2Proof.Machine.execBroadcastReserved cmd6 r len dp1 s

end Sys2Proof.Machine
end

