-- ==== Sys2Proof/Machine/Assembler.lean ====
section
/-! DEFINITION. The frame assembler (42_assembler.md): which transition a step takes (R160) and the transitions that run no
instruction, one definition per rule. The completing transition (R167) runs the instruction in the frame's header. -/

namespace Sys2Proof.Machine

open Sys2Proof

/-- R160: the transitions, one per rule. -/
inductive Transition where
  /-- R270. -/
  | reset
  /-- R161. -/
  | idleByte
  /-- R162. -/
  | idleWait
  /-- R166. -/
  | append
  /-- R167. -/
  | complete
  /-- R169. -/
  | recvWait
  /-- R170. -/
  | tmoByte
  /-- R171. -/
  | tmoWait
  deriving DecidableEq, Repr

/-- R160: reset first, then by the state and `in_valid`; exactly one transition applies. -/
def transitionOf (g : Regs) (i : Input) : Transition :=
  if i.rst then .reset
  else match g.st with
    | .idle => if i.inValid then .idleByte else .idleWait
    | .recv => if i.inValid then (if completes g i.inByte then .complete else .append) else .recvWait
    | .tmo => if i.inValid then .tmoByte else .tmoWait

/-- R160: the transition of this step. -/
def State.transition (s : State) : Transition := transitionOf s.regs s.input

/-- R270: a reset step, whatever the state and the other inputs are; no event. -/
def resetStep (s : State) : State := s.finish (idleRegs s.cfg) none

/-- R161: the first byte of a frame; a tick in this step is not counted. -/
def idleByteStep (s : State) : State := s.finish (firstByteRegs s.cfg s.input.inByte) none

/-- R162: no register changes. -/
def idleWaitStep (s : State) : State := s.finish s.regs none

/-- R166, R168: the registers after an append. -/
def appendRegs (cfg : Config) (g : Regs) (i : Input) : Regs :=
  { st := expiry cfg (timerNext cfg g.tmr i.tick)
    buf := g.buf.write g.cnt i.inByte
    cnt := g.cnt + 1
    crc := cfg.crc.step g.crc i.inByte
    tmr := timerNext cfg g.tmr i.tick }

/-- R166: the byte is appended at `cnt`. The buffer ends at index 32 (R50). -/
def appendStep (s : State) : Host.Outcome State Fault Refusal :=
  if s.regs.cnt < bufBytes then .next (s.finish (appendRegs s.cfg s.regs s.input) none)
  else .fault .bufferRange

/-- R169: no byte; ticks are counted. -/
def recvWaitRegs (cfg : Config) (g : Regs) (i : Input) : Regs :=
  { g with tmr := timerNext cfg g.tmr i.tick, st := expiry cfg (timerNext cfg g.tmr i.tick) }

/-- R169. -/
def recvWaitStep (s : State) : State := s.finish (recvWaitRegs s.cfg s.regs s.input) none

/-- R170, R171, R244: TIMEOUT with the bytes collected, read from `buf[0..cnt-1]`. -/
def timeoutStep (next : Regs) (s : State) : Host.Outcome State Fault Refusal :=
  if s.regs.cnt ≤ bufBytes then .next (raiseError .timeout (addrOf (heldBytes s.regs)) (heldBytes s.regs) next s)
  else .fault .bufferRange

/-- R170: the byte of this step starts a new frame and is no part of the report. -/
def tmoByteStep (s : State) : Host.Outcome State Fault Refusal :=
  timeoutStep (firstByteRegs s.cfg s.input.inByte) s

/-- R171: back to IDLE. -/
def tmoWaitStep (s : State) : Host.Outcome State Fault Refusal := timeoutStep (idleRegs s.cfg) s

end Sys2Proof.Machine
end

