-- ==== Sys2Proof/Machine/Fetch.lean ====
section
/-! DEFINITION. The instruction of a completing step: the header in `buf[0]` and `buf[1]` (R167, R200), and the state that
holds a given header word in a frame whose CRC byte is being presented (notes/assumptions/9.md). -/

namespace Sys2Proof.Machine

open Sys2Proof

/-- R200, R80: the instruction in the header of the frame held. -/
def State.fetch (s : State) : Instr := decodeWord (heldHeader s.regs)

/-- A frame buffer holding bytes from an index on. -/
def storeBytes : Memory → Nat → List Byte → Memory
  | m, _, [] => m
  | m, i, b :: bs => storeBytes (m.write i b) (i + 1) bs

/-- The registers in RECV holding the bytes of a frame before its CRC byte (R22 to R25), with no tick counted. -/
def recvHolding (cfg : Config) (body : List Byte) : Regs :=
  { st := .recv, buf := storeBytes Memory.clear 0 body, cnt := body.length, crc := cfg.crc.fold cfg.crc.init body,
    tmr := 0 }

/-- The bytes before the CRC byte of a frame with the header `b0`, `b1` and a payload of zeros of its declared length. -/
def zeroPayloadBody (b0 b1 : Byte) : List Byte := b0 :: b1 :: List.replicate (lenOfByte1 b1) 0#8

/-- `s` with the frame `body` held and its right CRC byte presented next, `exp_fam` 0. -/
def State.presenting (s : State) (body : List Byte) : State :=
  { s with
    regs := recvHolding s.cfg body
    inputs := { rst := false, inValid := true, inByte := s.cfg.crc.crc8 body, tick := false, expFam := 0#3 } ::
      s.inputs }

/-- What withFetchWord does: the two header bytes of the table word, as decodeTableWord lays them out. -/
def State.holdingWord (s : State) (nbits w : Nat) : State :=
  s.presenting (zeroPayloadBody (BitVec.ofNat 8 (w % 2 ^ nbits)) (BitVec.ofNat 8 (w % 2 ^ nbits / 256)))

end Sys2Proof.Machine
end

