-- ==== Sys2Proof/Machine/Step.lean ====
section
/-! DEFINITION. One step of the machine (R160, R177): under a configuration that R273 allows, the transition that the
registers and this step's inputs select. -/

namespace Sys2Proof.Machine

open Sys2Proof

/-- R160. The completing transition runs the instruction in the frame's header (R167, R200). -/
def step (s : State) : Host.Outcome State Fault Refusal :=
  if s.cfg.wf then
    match s.transition with
    | .reset => .next (resetStep s)
    | .idleByte => .next (idleByteStep s)
    | .idleWait => .next (idleWaitStep s)
    | .append => appendStep s
    | .complete => exec s.fetch s
    | .recvWait => .next (recvWaitStep s)
    | .tmoByte => tmoByteStep s
    | .tmoWait => tmoWaitStep s
  else .refused .illFormedConfig

/-- `s` with the header word `w` held in a frame that the next step completes (notes/assumptions/9.md). -/
def State.withFetchWord (s : State) (nbits w : Nat) : State := s.holdingWord nbits w

end Sys2Proof.Machine
end

