-- ==== Sys2Proof/Machine/Dispatcher.lean ====
section
/-! DEFINITION. The combinational functions of the frame codec at list level: the dispatch multiplexer (R200), decodeFrame
(R229), buildFrame (R146), encodeFrame (R230), and the assembled step function (R177) as the spec's own signature has it
(R11). They are written from their rules and apart from the step of Machine/Step.lean. -/

namespace Sys2Proof.Machine

open Sys2Proof

/-- R200 `dispatch(raw, crcOk, fc)`. -/
def dispatch (cfg : Config) (raw : List Byte) (crcOk : Bool) (fc : BitVec 3) : Event :=
  if crcOk = false then .err .crcMismatch (addrOf raw) raw
  else match decodeHeader (raw.getD 0 0#8) (raw.getD 1 0#8) with
    | .t2 h =>
      if h.cmd6 = 0x00#6 ∨ h.cmd6 = 0x01#6 ∨ h.cmd6 = 0x3F#6 then .okBroadcast h (payloadOf raw) raw
      else .err .unknownCommand none raw
    | .t1 h =>
      if h.cmd = 7#3 then
        (if h.r = 1#1 then .moduleError h (payloadOf raw) raw else .err .unknownCommand (some h.addr) raw)
      else match famOf fc with
        | none => .err .unknownCommand (some h.addr) raw
        | some f =>
          match cfg.lookup f h.cmd h.r with
          | none => .err .unknownCommand (some h.addr) raw
          | some (schema, size) =>
            if h.len ≠ size then .err .sizeMismatch (some h.addr) raw
            else .okUnicast h f schema (payloadOf raw) raw

/-- R229: the lists that the assembler forms. -/
def isFrame (raw : List Byte) : Bool :=
  decide (3 ≤ raw.length) && decide (raw.length = lenOfByte1 (raw.getD 1 0#8) + 3)

/-- R229 `decodeFrame(raw, fc)`; other lists are refused. -/
def decodeFrame (cfg : Config) (raw : List Byte) (fc : BitVec 3) : Option Event :=
  if isFrame raw then some (dispatch cfg raw (cfg.crc.validate raw) fc) else none

/-- R146 `buildFrame(h, p)`. -/
def buildFrame (cfg : Config) (h : HeaderReq) (p : List Byte) : Except EncErr (List Byte) :=
  match encodeHeader (h.withLen p.length) with
  | .error e => .error e
  | .ok (b0, b1) => .ok (b0 :: b1 :: p ++ [cfg.crc.crc8 (b0 :: b1 :: p)])

/-- R230: the errors of `encodeFrame`. -/
inductive TxErr where
  | enc (e : EncErr)
  | unknownCommand
  | sizeMismatch
  deriving DecidableEq, Repr

/-- R230: an error of `buildFrame` as one of `encodeFrame`. -/
def liftEnc : Except EncErr (List Byte) → Except TxErr (List Byte)
  | .ok fr => .ok fr
  | .error e => .error (.enc e)

/-- R230 `encodeFrame(h, f, p)`. -/
def encodeFrame (cfg : Config) (h : HeaderReq) (f : Family) (p : List Byte) : Except TxErr (List Byte) :=
  match h with
  | .t1 _ r _ cmd =>
    if cmd ≤ 6 then
      match cfg.lookup f (BitVec.ofNat 3 cmd) r with
      | none => .error .unknownCommand
      | some (_, size) => if p.length ≠ size.toNat then .error .sizeMismatch else liftEnc (buildFrame cfg h p)
    else liftEnc (buildFrame cfg h p)
  | .t2 _ _ _ _ => liftEnc (buildFrame cfg h p)

/-- R177, R11: the assembled step function. -/
def assembledStep (cfg : Config) (s : Regs) (i : Input) : Regs × Option Event :=
  if i.rst then (idleRegs cfg, none)
  else match s.st with
    | .idle => if i.inValid then (firstByteRegs cfg i.inByte, none) else (s, none)
    | .tmo =>
      let raw := s.buf.bytes s.cnt
      let ev := Event.err .timeout (addrOf raw) raw
      if i.inValid then (firstByteRegs cfg i.inByte, some ev) else (idleRegs cfg, some ev)
    | .recv =>
      let tmr' := if i.tick then min (s.tmr + 1) (cfg.timeoutTicks + 1) else s.tmr
      let st' := if cfg.timeoutTicks < tmr' then Fsm.tmo else Fsm.recv
      if i.inValid then
        let len := if s.cnt = 1 then (i.inByte &&& 0x1F#8).toNat else (s.buf.read 1 &&& 0x1F#8).toNat
        if 2 ≤ s.cnt ∧ s.cnt = len + 2 then
          (idleRegs cfg, some (dispatch cfg (s.buf.bytes s.cnt ++ [i.inByte]) (cfg.crc.final s.crc == i.inByte) i.expFam))
        else
          ({ st := st', buf := s.buf.write s.cnt i.inByte, cnt := s.cnt + 1, crc := cfg.crc.step s.crc i.inByte,
             tmr := tmr' }, none)
      else ({ s with tmr := tmr', st := st' }, none)

end Sys2Proof.Machine
end

