-- ==== Sys2Proof/Machine/Platform.lean ====
section
/-! DEFINITION. The platform of R262: `N_CHANNELS` independent core instances, one per bus channel, that share the read-only
configuration and nothing else. -/

namespace Sys2Proof.Machine

open Sys2Proof

/-- R262: one state record of R20 per channel, under one configuration. -/
structure Platform where
  cfg : Config
  channels : List Regs
  deriving DecidableEq, Repr

/-- R262: there are `N_CHANNELS` instances, and at least one. -/
def Platform.wf (p : Platform) : Bool := p.cfg.wf && decide (p.channels.length = p.cfg.nChannels)

/-- R34, R262: every instance after reset. -/
def Platform.reset (cfg : Config) : Platform :=
  { cfg := cfg, channels := List.replicate cfg.nChannels (idleRegs cfg) }

/-- R262, R263: one step of every instance, each with its own input record. A platform that breaks R262, or a list of inputs
that does not give each channel one, is refused (notes/assumptions/11.md). -/
def Platform.step (p : Platform) (ins : List Input) : Option (Platform × List (Option Event)) :=
  if p.wf ∧ ins.length = p.channels.length then
    some ({ p with channels := List.zipWith (fun g i => (assembledStep p.cfg g i).1) p.channels ins },
      List.zipWith (fun g i => (assembledStep p.cfg g i).2) p.channels ins)
  else none

end Sys2Proof.Machine
end

