-- ==== Sys2Proof/Machine/Stimulus.lean ====
section
/-! DEFINITION. The stimulus notation (R93 to R95): a run written as lines, and the inputs it presents, one record a step. -/

namespace Sys2Proof.Machine

open Sys2Proof

/-- R93, R94: the step lines, the `FAM` line, and the pseudo-instructions. -/
inductive Line where
  | rst
  | b (x : Byte)
  | bt (x : Byte)
  | t
  | n
  | fam (f : BitVec 3)
  | tTimes (k : Nat)
  | nTimes (k : Nat)
  | frame (xs : List Byte)
  | send1 (addr : Nat) (r : BitVec 1) (cmd : Nat) (p : List Byte)
  | send2 (cmd6 : Nat) (r : BitVec 1) (dp1 : Nat) (p : List Byte)
  deriving DecidableEq, Repr

/-- R93 `RST`. -/
def rstInput (fam : BitVec 3) : Input := { rst := true, inValid := false, inByte := 0#8, tick := false, expFam := fam }

/-- R93 `B xx` and `BT xx`. -/
def byteInput (fam : BitVec 3) (tick : Bool) (x : Byte) : Input :=
  { rst := false, inValid := true, inByte := x, tick := tick, expFam := fam }

/-- R93 `T` and `N`. -/
def gapInput (fam : BitVec 3) (tick : Bool) : Input :=
  { rst := false, inValid := false, inByte := 0#8, tick := tick, expFam := fam }

/-- R93, R94: the inputs of one line that is a step or several. -/
def Line.inputs (cfg : Config) (fam : BitVec 3) : Line → Except EncErr (List Input)
  | .rst => .ok [rstInput fam]
  | .b x => .ok [byteInput fam false x]
  | .bt x => .ok [byteInput fam true x]
  | .t => .ok [gapInput fam true]
  | .n => .ok [gapInput fam false]
  | .fam _ => .ok []
  | .tTimes k => .ok (List.replicate k (gapInput fam true))
  | .nTimes k => .ok (List.replicate k (gapInput fam false))
  | .frame xs => .ok (xs.map (byteInput fam false))
  | .send1 addr r cmd p => (buildFrame cfg (.t1 addr r p.length cmd) p).map (·.map (byteInput fam false))
  | .send2 cmd6 r dp1 p => (buildFrame cfg (.t2 cmd6 r p.length dp1) p).map (·.map (byteInput fam false))

/-- R93: the family in force after a line. -/
def Line.famAfter (fam : BitVec 3) : Line → BitVec 3
  | .fam f => f
  | .rst => fam
  | .b _ => fam
  | .bt _ => fam
  | .t => fam
  | .n => fam
  | .tTimes _ => fam
  | .nTimes _ => fam
  | .frame _ => fam
  | .send1 _ _ _ _ => fam
  | .send2 _ _ _ _ => fam

/-- R93: the inputs of a list of lines, with `exp_fam` carried from line to line. -/
def expandFrom (cfg : Config) : BitVec 3 → List Line → Except EncErr (List Input)
  | _, [] => .ok []
  | fam, l :: ls =>
    match l.inputs cfg fam with
    | .error e => .error e
    | .ok is =>
      match expandFrom cfg (l.famAfter fam) ls with
      | .error e => .error e
      | .ok js => .ok (is ++ js)

/-- R93: a stimulus program; before its first `FAM` line `exp_fam` is 0. -/
def expand (cfg : Config) (ls : List Line) : Except EncErr (List Input) := expandFrom cfg 0#3 ls

end Sys2Proof.Machine
end

