-- ==== Sys2Proof/Machine/Run.lean ====
section
/-! DEFINITION. A run of several steps with the events it emits (R286). -/

namespace Sys2Proof.Machine

open Sys2Proof

/-- R286: this step's event with its step number, before those of the steps after it. -/
def withEvent (n : Nat) (ev : Option Event) (evs : List (Nat × Event)) : List (Nat × Event) :=
  match ev with
  | some e => (n, e) :: evs
  | none => evs

/-- R286: the state after `k` steps and the events they emitted, each with its step number. -/
def runTrace : Nat → State → Host.Outcome (State × List (Nat × Event)) Fault Refusal
  | 0, s => .next (s, [])
  | k + 1, s =>
    match step s with
    | .next t =>
      match runTrace k t with
      | .next (u, evs) => .next (u, withEvent s.stepNo t.event evs)
      | .fault r => .fault r
      | .refused r => .refused r
    | .fault r => .fault r
    | .refused r => .refused r

end Sys2Proof.Machine
end

