-- ==== Sys2Proof/Safety.lean ====
section
/-! DEFINITION. What counts as a good state and a safe run: the invariant of R27 with the canonical form of the buffer and
the configuration that R273 asks for, and the states that a run from reset can be in. -/

namespace Sys2Proof.Machine

open Sys2Proof

/-- R27, columns RECV and TMO: no complete frame is held, `if cnt ≥ 2 then cnt ≤ buf[1][4:0] + 2`. -/
def lenBound (g : Regs) : Bool := decide (g.cnt < 2) || decide (g.cnt ≤ lenOfByte1 (g.buf.read 1) + 2)

/-- R27: the invariant of each assembler state. That `buf[i] = 0x00` from `cnt` on is said by the cells' indices. -/
def Regs.inv (cfg : Config) (g : Regs) : Bool :=
  g.buf.wf && g.buf.below g.cnt &&
  match g.st with
  | .idle => decide (g.cnt = 0) && g.crc == cfg.crc.init && decide (g.tmr = 0)
  | .recv =>
    decide (1 ≤ g.cnt) && decide (g.cnt ≤ bufBytes) && lenBound g &&
      g.crc == cfg.crc.fold cfg.crc.init (heldBytes g) && decide (g.tmr ≤ cfg.timeoutTicks)
  | .tmo => decide (1 ≤ g.cnt) && decide (g.cnt ≤ bufBytes) && lenBound g && decide (g.tmr = cfg.timeoutTicks + 1)

/-- A good state: a configuration that a model does not refuse, and R27. -/
def State.inv (s : State) : Bool := s.cfg.wf && s.regs.inv s.cfg

/-- The next step neither faults nor refuses. -/
def StepSafe (s : State) : Prop := ∃ t, step s = .next t

/-- R35: the states of the runs that begin with reset, under any configuration that R273 allows and any inputs. -/
inductive Reachable : State → Prop where
  | afterReset (cfg : Config) (inputs : List Input) (h : cfg.wf = true) : Reachable (State.resetWith cfg inputs)
  | afterStep (s t : State) (hs : Reachable s) (h : step s = .next t) : Reachable t

/-- R178 `K`: the number of steps with `tick = 1`. -/
def tickCount (is : List Input) : Nat := is.countP fun i => i.tick

/-- The bytes that a list of inputs presents (R97: `in_byte` counts only with `in_valid`). -/
def presented (is : List Input) : List Byte := (is.filter fun i => i.inValid).map fun i => i.inByte

/-- No reset among the inputs. -/
def noReset (is : List Input) : Bool := is.all fun i => !i.rst

/-- A list of bytes that is no complete frame and does not go past one (R27, R165). -/
def partialFrame (bs : List Byte) : Bool :=
  decide (1 ≤ bs.length) && (decide (bs.length < 2) || decide (bs.length ≤ lenOfByte1 (bs.getD 1 0#8) + 2))

/-- R170, R178: what the step that accepts a frame's first byte emits: from TMO the TIMEOUT of the bytes held before, from
IDLE nothing. -/
def pendingTimeout (s : State) : List (Nat × Event) :=
  if s.regs.st = .tmo then [(s.stepNo, .err .timeout (addrOf (heldBytes s.regs)) (heldBytes s.regs))] else []

end Sys2Proof.Machine
end

