-- ==== Sys2Proof/Certificates/Slice0/Obligations.lean ====
section
/-! DEFINITION. The statements about the machine, in the order of OBLIGATIONS.json. -/

open Sys2Proof Sys2Proof.Machine

/-- 30_encoding R57, R80: every well-formed instruction is read back from its two bytes, whatever follows them, with every
operand at every value. -/
def Obligations.DecodeReadsBackEveryEncoding : Prop :=
  ∀ (i : Instr) (rest : List Byte), i.wf = true → decode (encodeBytes i ++ rest) = .ok (i, rest)

/-- R81, R80: every header word decodes to a well-formed instruction that encodes to the same word, so no two rows share a
word and no bit is dropped. -/
def Obligations.EveryWordIsTheEncodingOfItsDecoding : Prop :=
  ∀ hw : HeaderWord, (decodeWord hw).wf = true ∧ encode (decodeWord hw) = hw

/-- R80, R130: the instruction of two header bytes and their decoded header are the same header. -/
def Obligations.OpcodeMapAgreesWithHeaderDecoder : Prop :=
  ∀ b0 b1 : Byte, headerOf (decodeWord (headerWordOf b0 b1)) = decodeHeader b0 b1

/-- R76, R143: sample words, written out from the encodings, decode to the instructions they stand for. -/
def Obligations.SampleWordsDecode : Prop :=
  decodeWord 0b0000001000000101#16 = .data 5#6 0#1 2#5 ∧
  decodeWord 0b0010000000111111#16 = .cfg 63#6 0#1 0#5 ∧
  decodeWord 0b1110000010000101#16 = .errResponse 5#6 0#5 ∧
  decodeWord 0b1110000000000101#16 = .errRequest 5#6 0#5 ∧
  decodeWord 0b1010001101000001#16 = .undef1 0#1 3#5 5#3 ∧
  decodeWord 0b0000000001111111#16 = .gotoGateProtocol 0#1 0#5 0#3 ∧
  decodeWord 0b0001111111000010#16 = .broadcastReserved 2#6 1#1 31#5 0#3

/-- R140: for every request whose encoding succeeds, decoding gives the header with the same fields. -/
def Obligations.HeaderEncodeThenDecode : Prop :=
  ∀ (h : HeaderReq) (b0 b1 : Byte), encodeHeader h = .ok (b0, b1) → (decodeHeader b0 b1).toReq = h

/-- R141: re-encoding the fields of a decoded header succeeds and gives the two bytes again, and decoding is a bijection. -/
def Obligations.HeaderDecodeThenEncode : Prop :=
  (∀ b0 b1 : Byte, encodeHeader (decodeHeader b0 b1).toReq = .ok (b0, b1)) ∧
  Function.Bijective fun p : Byte × Byte => decodeHeader p.1 p.2

/-- R138: the length is checked first, the other fields only when it fits; on the port the code of R92 is on `he_err`, and
`he_out` is 0 when there is an error. -/
def Obligations.EncoderChecksTheLengthFirst : Prop :=
  (∀ (a : Nat) (r : BitVec 1) (len c : Nat),
    (31 < len → encodeHeader (.t1 a r len c) = .error .lengthOutOfRange ∧
      encodeHeader (.t2 a r len c) = .error .lengthOutOfRange) ∧
    (len ≤ 31 → 63 < a ∨ 7 < c → encodeHeader (.t1 a r len c) = .error .fieldOutOfRange ∧
      encodeHeader (.t2 a r len c) = .error .fieldOutOfRange)) ∧
  ∀ (t r : BitVec 1) (len f0 f1 : Byte),
    (31 < len.toNat → hePort t r len f0 f1 = { heOut := 0#16, heErr := 1#2 }) ∧
    (len.toNat ≤ 31 → 63 < f0.toNat ∨ 7 < f1.toNat → hePort t r len f0 f1 = { heOut := 0#16, heErr := 2#2 }) ∧
    (len.toNat ≤ 31 → f0.toNat ≤ 63 → f1.toNat ≤ 7 → (hePort t r len f0 f1).heErr = 0#2)

/-- R133, R100: the header decoder port drives the fields of the decoded header, and zeros on the other type's outputs. -/
def Obligations.DecoderPortDrivesOneFieldGroup : Prop :=
  ∀ b0 b1 : Byte,
    match decodeHeader b0 b1 with
    | .t1 h => hdPort (headerWordOf b0 b1) =
        { hdT := 0#1, hdR := h.r, hdLen := h.len, hdAddr := h.addr, hdCmd1 := h.cmd, hdCmd2 := 0#6, hdDp1 := 0#3 }
    | .t2 h => hdPort (headerWordOf b0 b1) =
        { hdT := 1#1, hdR := h.r, hdLen := h.len, hdAddr := 0#6, hdCmd1 := 0#3, hdCmd2 := h.cmd6, hdDp1 := h.dp1 }

/-- R115: under the default instance `crcStep(c, b) = c ^ b` and `crcFinal(c) = c`, so `crc8` is the exclusive or of all
bytes, and 0x00 of none. -/
def Obligations.DefaultCrcIsTheXorOfTheBytes : Prop :=
  (∀ c b : Byte, Crc.default.step c b = c ^^^ b ∧ Crc.default.final c = c) ∧
  (∀ bs : List Byte, Crc.default.crc8 bs = bs.foldl (fun c b => c ^^^ b) 0x00#8) ∧
  Crc.default.crc8 [] = 0x00#8

/-- R119, first sentence: under the default instance, inverting bit j of a covered byte inverts bit j of the CRC. -/
def Obligations.DefaultCrcInvertsTheFlippedBit : Prop :=
  ∀ (bs : List Byte) (i j : Nat), i < bs.length → j < 8 →
    Crc.default.crc8 (flipBit bs i j) = Crc.default.crc8 bs ^^^ (1#8 <<< j)

/-- R112, R113: the model's check of a parameterised instance, a nonzero polynomial, is exactly R112. That R112 reduces to
this is DEDUCED (notes/assumptions/4.md): the spec says it of nonzero polynomials (R112) and of 0x00 (R119). -/
def Obligations.PolynomialCheckIsSingleBitDetection : Prop :=
  ∀ p : CrcParams, (Crc.params p).wf = true ↔ (Crc.params p).DetectsSingleBit

/-- R112: the model's check of a tabulated triple is exactly R112 (the check is the model's, notes/assumptions/4.md). -/
def Obligations.TableCheckIsSingleBitDetection : Prop :=
  ∀ t : CrcTable, (Crc.table t).wf = true ↔ (Crc.table t).DetectsSingleBit

/-- R117: in the completion step of a good state, `crc` holds the fold over the bytes held, `crcOk` compares its final value
with the arriving byte, and the result is `validate` of the frame's raw bytes. -/
def Obligations.CrcCheckValidatesTheFrame : Prop :=
  ∀ s : State, s.inv = true → s.transition = .complete →
    s.regs.crc = (heldBytes s.regs).foldl s.cfg.crc.step s.cfg.crc.init ∧
    (s.crcOk = true ↔ s.cfg.crc.final s.regs.crc = s.input.inByte) ∧
    s.crcOk = s.cfg.crc.validate s.raw

/-- R118, R146: a built frame is the encoded header, the payload and the CRC of both, and it validates; its length field is
that of the payload, whatever length was asked for. The frame is built exactly when the payload has at most 31 bytes and the
two other fields fit; a longer payload is LENGTH_OUT_OF_RANGE, and a field that does not fit is FIELD_OUT_OF_RANGE. -/
def Obligations.BuiltFramesValidate : Prop :=
  ∀ (cfg : Config) (p : List Byte),
    (∀ (h : HeaderReq) (fr : List Byte), buildFrame cfg h p = .ok fr →
      ∃ b0 b1 : Byte, encodeHeader (h.withLen p.length) = .ok (b0, b1) ∧
        fr = b0 :: b1 :: p ++ [cfg.crc.crc8 (b0 :: b1 :: p)] ∧
        cfg.crc.validate fr = true ∧ isFrame fr = true ∧ payloadOf fr = p) ∧
    ∀ (a : Nat) (r : BitVec 1) (len c : Nat), ∀ h ∈ [HeaderReq.t1 a r len c, .t2 a r len c],
      (31 < p.length → buildFrame cfg h p = .error .lengthOutOfRange) ∧
      (p.length ≤ 31 → 63 < a ∨ 7 < c → buildFrame cfg h p = .error .fieldOutOfRange) ∧
      (p.length ≤ 31 → a ≤ 63 → c ≤ 7 → ∃ fr : List Byte, buildFrame cfg h p = .ok fr)

/-- R206 to R208: under a configuration that is not refused, lookup gives exactly the schema at the key, with its size. -/
def Obligations.LookupFindsTheSchemaAtTheKey : Prop :=
  ∀ (cfg : Config) (f : Family) (cmd : BitVec 3) (dir : BitVec 1) (s : SchemaId) (size : BitVec 5), cfg.wf = true →
    (cfg.lookup f cmd dir = some (s, size) ↔
      s.fam = f ∧ s.dir = dir ∧ (cfg.cmdOf s).val = cmd.toNat ∧ size = cfg.size s)

/-- R207, R56: exactly 26 ROM entries are valid. -/
def Obligations.RomHoldsTwentySixSchemas : Prop :=
  ∀ cfg : Config, cfg.wf = true →
    (List.range 128).countP (fun a => (cfg.romRead (BitVec.ofNat 7 a)).extractLsb' 10 1 == 1#1) = 26

/-- R54, R206: the 11-bit entry at a key holds `valid`, the schema id and the size of the registry's answer; an entry with
no schema is 0, as are all of a family code of 5 or more and of command 7 (R56). -/
def Obligations.RomEntriesHoldTheRegistry : Prop :=
  ∀ (cfg : Config) (fam : BitVec 3) (dir : BitVec 1) (cmd : BitVec 3),
    (∀ s size, cfg.registry fam dir cmd = some (s, size) →
      (cfg.romRead (romAddress fam dir cmd)).extractLsb' 10 1 = 1#1 ∧
      ((cfg.romRead (romAddress fam dir cmd)).extractLsb' 5 5).toNat = s.id.val ∧
      (cfg.romRead (romAddress fam dir cmd)).extractLsb' 0 5 = size) ∧
    (cfg.registry fam dir cmd = none → cfg.romRead (romAddress fam dir cmd) = 0#11) ∧
    (5 ≤ fam.toNat ∨ cmd = 7#3 → cfg.romRead (romAddress fam dir cmd) = 0#11)

/-- R212, R204, R205: command 1 of a request finds the family's config schema; the MIO_DIO one has size 21. -/
def Obligations.ConfigCommandFindsTheConfigSchema : Prop :=
  ∀ (cfg : Config) (f : Family), cfg.wf = true →
    cfg.lookup f 1#3 0#1 = some (f.configSchema, cfg.size f.configSchema) ∧
    cfg.lookup .mioDio 1#3 0#1 = some (.mioDioConfig, 21#5)

/-- R167, R176: the frame of every instruction (DATA, CFG, DATA2 to DATA6, ERR_RESPONSE, ERR_REQUEST, UNDEF0, UNDEF1,
GOTO_GATE_PROTOCOL, BROADCAST_RESERVED): it answers a next state, with one event that reports the raw bytes of the frame; the
registers are those of idleState, every buffer byte reads 0x00, the configuration is unchanged and one input is consumed. -/
def Obligations.EveryInstructionEndsItsFrame : Prop :=
  ∀ (i : Instr) (s : State), ∃ (ev : Event) (t : State), exec i s = .next t ∧
    t.event = some ev ∧ ev.raw = s.raw ∧
    t.regs.st = .idle ∧ (∀ a : Nat, t.regs.buf.read a = 0x00#8) ∧ t.regs.buf.wf = true ∧ t.regs.cnt = 0 ∧
    t.regs.crc = s.cfg.crc.init ∧ t.regs.tmr = 0 ∧
    t.cfg = s.cfg ∧ t.inputs = s.inputs.tail ∧ t.stepNo = s.stepNo + 1

/-- R243: with a wrong CRC byte, the completing step and every instruction report CRC_MISMATCH with all `L + 3` bytes,
whatever the header says. -/
def Obligations.WrongCrcReportsMismatch : Prop :=
  (∀ (i : Instr) (s : State), s.cfg.crc.final s.regs.crc ≠ s.input.inByte →
    exec i s = .next { s with
      regs := idleRegs s.cfg, event := some (.err .crcMismatch (addrOf s.raw) s.raw),
      inputs := s.inputs.tail, stepNo := s.stepNo + 1 }) ∧
  ∀ s : State, s.cfg.wf = true → s.transition = .complete → s.cfg.crc.final s.regs.crc ≠ s.input.inByte →
    s.raw.length = lenOfByte1 (s.regs.buf.read 1) + 3 ∧
    step s = .next { s with
      regs := idleRegs s.cfg, event := some (.err .crcMismatch (addrOf s.raw) s.raw),
      inputs := s.inputs.tail, stepNo := s.stepNo + 1 }

/-- R211 to R217 (DATA, CFG, DATA2, DATA3, DATA4, DATA5, DATA6): with a right CRC byte, a family, and a schema of the
declared size at the key, the frame is delivered as OK_UNICAST with its header, family, schema, payload and raw bytes. -/
def Obligations.UnicastFramesAreDelivered : Prop :=
  ∀ (addr : BitVec 6) (r : BitVec 1) (len : BitVec 5) (s : State) (f : Family) (schema : SchemaId),
    s.cfg.crc.final s.regs.crc = s.input.inByte → famOf s.input.expFam = some f →
    ∀ p ∈ [(Instr.data addr r len, 0#3), (.cfg addr r len, 1#3), (.data2 addr r len, 2#3), (.data3 addr r len, 3#3),
        (.data4 addr r len, 4#3), (.data5 addr r len, 5#3), (.data6 addr r len, 6#3)],
      s.cfg.lookup f p.2 r = some (schema, len) →
      exec p.1 s = .next { s with
        regs := idleRegs s.cfg
        event := some (.okUnicast { addr := addr, r := r, len := len, cmd := p.2 } f schema (payloadOf s.raw) s.raw)
        inputs := s.inputs.tail
        stepNo := s.stepNo + 1 }

/-- R224, R208, R245 cases 3 and 4 (DATA, CFG, DATA2, DATA3, DATA4, DATA5, DATA6): with a right CRC byte, a family code of
5, 6 or 7, or no schema at the key, gives UNKNOWN_COMMAND with the frame's address. -/
def Obligations.UnicastWithoutSchemaIsUnknown : Prop :=
  ∀ (addr : BitVec 6) (r : BitVec 1) (len : BitVec 5) (s : State),
    s.cfg.crc.final s.regs.crc = s.input.inByte →
    ∀ p ∈ [(Instr.data addr r len, 0#3), (.cfg addr r len, 1#3), (.data2 addr r len, 2#3), (.data3 addr r len, 3#3),
        (.data4 addr r len, 4#3), (.data5 addr r len, 5#3), (.data6 addr r len, 6#3)],
      (5 ≤ s.input.expFam.toNat ∨ ∃ f, famOf s.input.expFam = some f ∧ s.cfg.lookup f p.2 r = none) →
      exec p.1 s = .next { s with
        regs := idleRegs s.cfg, event := some (.err .unknownCommand (some addr) s.raw),
        inputs := s.inputs.tail, stepNo := s.stepNo + 1 }

/-- R209, R246 (DATA, CFG, DATA2, DATA3, DATA4, DATA5, DATA6): with a right CRC byte and a schema at the key, a declared
length other than its size gives SIZE_MISMATCH with the whole frame. -/
def Obligations.UnicastOfWrongSizeIsMismatch : Prop :=
  ∀ (addr : BitVec 6) (r : BitVec 1) (len : BitVec 5) (s : State) (f : Family) (schema : SchemaId) (size : BitVec 5),
    s.cfg.crc.final s.regs.crc = s.input.inByte → famOf s.input.expFam = some f → len ≠ size →
    ∀ p ∈ [(Instr.data addr r len, 0#3), (.cfg addr r len, 1#3), (.data2 addr r len, 2#3), (.data3 addr r len, 3#3),
        (.data4 addr r len, 4#3), (.data5 addr r len, 5#3), (.data6 addr r len, 6#3)],
      s.cfg.lookup f p.2 r = some (schema, size) →
      exec p.1 s = .next { s with
        regs := idleRegs s.cfg, event := some (.err .sizeMismatch (some addr) s.raw),
        inputs := s.inputs.tail, stepNo := s.stepNo + 1 }

/-- R218 (ERR_RESPONSE): with a right CRC byte, MODULE_ERROR with the raw payload, for every length and `exp_fam`. -/
def Obligations.ErrorResponseIsModuleError : Prop :=
  ∀ (addr : BitVec 6) (len : BitVec 5) (s : State), s.cfg.crc.final s.regs.crc = s.input.inByte →
    exec (.errResponse addr len) s = .next { s with
      regs := idleRegs s.cfg
      event := some (.moduleError { addr := addr, r := 1#1, len := len, cmd := 7#3 } (payloadOf s.raw) s.raw)
      inputs := s.inputs.tail
      stepNo := s.stepNo + 1 }

/-- R219 (ERR_REQUEST): with a right CRC byte, UNKNOWN_COMMAND with the address, for every length and `exp_fam`. -/
def Obligations.ErrorRequestIsUnknown : Prop :=
  ∀ (addr : BitVec 6) (len : BitVec 5) (s : State), s.cfg.crc.final s.regs.crc = s.input.inByte →
    exec (.errRequest addr len) s = .next { s with
      regs := idleRegs s.cfg, event := some (.err .unknownCommand (some addr) s.raw),
      inputs := s.inputs.tail, stepNo := s.stepNo + 1 }

/-- R220 to R222 (UNDEF0, UNDEF1, GOTO_GATE_PROTOCOL): with a right CRC byte, OK_BROADCAST with the header and the payload,
for every R, length, DP1 and `exp_fam`. -/
def Obligations.DefinedBroadcastsAreDelivered : Prop :=
  ∀ (r : BitVec 1) (len : BitVec 5) (dp1 : BitVec 3) (s : State), s.cfg.crc.final s.regs.crc = s.input.inByte →
    ∀ p ∈ [(Instr.undef0 r len dp1, 0x00#6), (.undef1 r len dp1, 0x01#6), (.gotoGateProtocol r len dp1, 0x3F#6)],
      exec p.1 s = .next { s with
        regs := idleRegs s.cfg
        event := some (.okBroadcast { cmd6 := p.2, r := r, len := len, dp1 := dp1 } (payloadOf s.raw) s.raw)
        inputs := s.inputs.tail
        stepNo := s.stepNo + 1 }

/-- R223 (BROADCAST_RESERVED): with a right CRC byte, UNKNOWN_COMMAND with no address, for each of the reserved values
alike. -/
def Obligations.ReservedBroadcastsAreUnknown : Prop :=
  ∀ (cmd6 : BitVec 6) (r : BitVec 1) (len : BitVec 5) (dp1 : BitVec 3) (s : State),
    s.cfg.crc.final s.regs.crc = s.input.inByte →
    exec (.broadcastReserved cmd6 r len dp1) s = .next { s with
      regs := idleRegs s.cfg, event := some (.err .unknownCommand none s.raw),
      inputs := s.inputs.tail, stepNo := s.stepNo + 1 }

/-- R200, R250: in every state that holds a header, running the instruction in it emits exactly what the dispatch
multiplexer gives for the raw bytes, the CRC result and `exp_fam`. -/
def Obligations.InstructionsRefineTheMultiplexer : Prop :=
  ∀ s : State, 2 ≤ s.regs.cnt →
    exec (decodeWord (headerWordOf (s.regs.buf.read 0) (s.regs.buf.read 1))) s = .next { s with
      regs := idleRegs s.cfg
      event := some (dispatch s.cfg s.raw (s.cfg.crc.final s.regs.crc == s.input.inByte) s.input.expFam)
      inputs := s.inputs.tail
      stepNo := s.stepNo + 1 }

/-- R160, R167, R200: when this step's byte completes the frame held and its header decodes to a well-formed instruction,
the step is that instruction, with nothing around it. -/
def Obligations.StepRunsTheDecodedInstruction : Prop :=
  ∀ (s : State) (i : Instr), s.cfg.wf = true → s.regs.st = .recv → s.input.rst = false → s.input.inValid = true →
    completes s.regs s.input.inByte = true → i.wf = true →
    decode [s.regs.buf.read 0, s.regs.buf.read 1] = .ok (i, []) → step s = exec i s

/-- The host's hook withFetchWord (the model's own, notes/assumptions/9.md): the next step runs the instruction whose word
is given, and its CRC byte is right. -/
def Obligations.PlacedWordRunsNext : Prop :=
  ∀ (i : Instr) (s : State), i.wf = true → s.cfg.wf = true →
    decodeTableWord 16 (encode i).toNat = some i ∧
    (s.withFetchWord 16 (encode i).toNat).crcOk = true ∧
    step (s.withFetchWord 16 (encode i).toNat) = exec i (s.withFetchWord 16 (encode i).toNat)

/-- R164, R165: the byte at index `cnt` completes the frame exactly when `cnt ≥ 2` and `cnt = L + 2`, with L from byte1; byte
index 1 never does; then `2 + L + 1` bytes have arrived. -/
def Obligations.FrameCompletesAtItsDeclaredLength : Prop :=
  ∀ (g : Regs) (b : Byte),
    (completes g b = true ↔
      2 ≤ g.cnt ∧ g.cnt = (if g.cnt = 1 then (b &&& 0x1F#8).toNat else (g.buf.read 1 &&& 0x1F#8).toNat) + 2) ∧
    (g.cnt = 1 → completes g b = false) ∧
    (completes g b = true → (heldBytes g ++ [b]).length = 2 + (g.buf.read 1 &&& 0x1F#8).toNat + 1)

/-- R270, R34: a step with `rst = 1` leaves every register at its reset value and emits no event, whatever the state and the
other inputs are. -/
def Obligations.ResetDominatesEveryInput : Prop :=
  ∀ s : State, s.cfg.wf = true → s.input.rst = true →
    ∃ t : State, step s = .next t ∧ t.event = none ∧ t.regs.st = .idle ∧ t.regs.cnt = 0 ∧
      (∀ a : Nat, t.regs.buf.read a = 0x00#8) ∧ t.regs.crc = s.cfg.crc.init ∧ t.regs.tmr = 0 ∧
      t.cfg = s.cfg ∧ t.inputs = s.inputs.tail

/-- R161: a byte in IDLE starts a frame: it is byte 0, the timer starts at 0 even when a tick comes with it, and no event is
emitted. -/
def Obligations.IdleByteStartsAFrame : Prop :=
  ∀ s : State, s.cfg.wf = true → s.input.rst = false → s.regs.st = .idle → s.input.inValid = true →
    ∃ t : State, step s = .next t ∧ t.event = none ∧ t.regs.st = .recv ∧ t.regs.cnt = 1 ∧
      (∀ a : Nat, t.regs.buf.read a = if a = 0 then s.input.inByte else 0x00#8) ∧
      t.regs.crc = s.cfg.crc.step s.cfg.crc.init s.input.inByte ∧ t.regs.tmr = 0 ∧
      t.cfg = s.cfg ∧ t.inputs = s.inputs.tail

/-- R162: without a byte, IDLE waits: no register changes, whatever the tick and `exp_fam`, and no event is emitted. -/
def Obligations.IdleWithoutByteWaits : Prop :=
  ∀ s : State, s.cfg.wf = true → s.input.rst = false → s.regs.st = .idle → s.input.inValid = false →
    step s = .next { s with event := none, inputs := s.inputs.tail, stepNo := s.stepNo + 1 }

/-- R166, with R163 and R168: a byte that does not complete the frame is stored at `cnt`, every other buffer byte stays, the
byte is folded into `crc`, the tick is counted, and the state is TMO exactly when the timer exceeds the threshold. The
premise that the buffer is canonical is part of the invariant of InvariantIsKept. -/
def Obligations.ByteIsAppended : Prop :=
  ∀ s : State, s.cfg.wf = true → s.regs.buf.wf = true → s.input.rst = false → s.regs.st = .recv →
    s.input.inValid = true → completes s.regs s.input.inByte = false → s.regs.cnt ≤ 32 →
    ∃ t : State, step s = .next t ∧ t.event = none ∧ t.regs.cnt = s.regs.cnt + 1 ∧
      (∀ a : Nat, t.regs.buf.read a = if a = s.regs.cnt then s.input.inByte else s.regs.buf.read a) ∧
      t.regs.crc = s.cfg.crc.step s.regs.crc s.input.inByte ∧
      t.regs.tmr = (if s.input.tick then min (s.regs.tmr + 1) (s.cfg.timeoutTicks + 1) else s.regs.tmr) ∧
      t.regs.st = (if t.regs.tmr > s.cfg.timeoutTicks then .tmo else .recv) ∧
      t.cfg = s.cfg ∧ t.inputs = s.inputs.tail

/-- R169, with R163 and R168: without a byte, RECV counts the tick and nothing else changes but the state at expiry. -/
def Obligations.RecvWithoutByteCountsTicks : Prop :=
  ∀ s : State, s.cfg.wf = true → s.input.rst = false → s.regs.st = .recv → s.input.inValid = false →
    ∃ t : State, step s = .next t ∧ t.event = none ∧ t.regs.cnt = s.regs.cnt ∧ t.regs.crc = s.regs.crc ∧
      (∀ a : Nat, t.regs.buf.read a = s.regs.buf.read a) ∧
      t.regs.tmr = (if s.input.tick then min (s.regs.tmr + 1) (s.cfg.timeoutTicks + 1) else s.regs.tmr) ∧
      t.regs.st = (if t.regs.tmr > s.cfg.timeoutTicks then .tmo else .recv) ∧
      t.cfg = s.cfg ∧ t.inputs = s.inputs.tail

/-- R170: a byte in TMO: TIMEOUT is reported with the bytes held, and the byte starts a new frame. -/
def Obligations.TimeoutWithByteStartsANewFrame : Prop :=
  ∀ s : State, s.cfg.wf = true → s.input.rst = false → s.regs.st = .tmo → s.input.inValid = true → s.regs.cnt ≤ 33 →
    step s = .next { s with
      regs := firstByteRegs s.cfg s.input.inByte
      event := some (.err .timeout (addrOf (s.regs.buf.bytes s.regs.cnt)) (s.regs.buf.bytes s.regs.cnt))
      inputs := s.inputs.tail
      stepNo := s.stepNo + 1 }

/-- R171: without a byte, TMO reports TIMEOUT with the bytes held and goes to IDLE. -/
def Obligations.TimeoutWithoutByteGoesIdle : Prop :=
  ∀ s : State, s.cfg.wf = true → s.input.rst = false → s.regs.st = .tmo → s.input.inValid = false →
    s.regs.cnt ≤ 33 →
    step s = .next { s with
      regs := idleRegs s.cfg
      event := some (.err .timeout (addrOf (s.regs.buf.bytes s.regs.cnt)) (s.regs.buf.bytes s.regs.cnt))
      inputs := s.inputs.tail
      stepNo := s.stepNo + 1 }

/-- R244: TIMEOUT reports between 1 and 33 bytes, and never a complete frame. -/
def Obligations.TimeoutReportsAPartialFrame : Prop :=
  ∀ s t : State, s.inv = true → s.input.rst = false → s.regs.st = .tmo → step s = .next t →
    t.event = some (.err .timeout (addrOf (s.regs.buf.bytes s.regs.cnt)) (s.regs.buf.bytes s.regs.cnt)) ∧
    1 ≤ s.regs.cnt ∧ s.regs.cnt ≤ 33 ∧ isFrame (s.regs.buf.bytes s.regs.cnt) = false ∧
    partialFrame (s.regs.buf.bytes s.regs.cnt) = true

/-- The model's stops, its own choice (notes/assumptions/5.md and 8.md): a step is refused exactly under a configuration that
R273 refuses, and faults exactly on a buffer access from index 33 on. -/
def Obligations.StepStopsOnlyOnRefusedConfigOrBufferEnd : Prop :=
  ∀ s : State,
    ((∃ r, step s = .refused r) ↔ s.cfg.wf = false) ∧
    ((∃ r, step s = .fault r) ↔ s.cfg.wf = true ∧
      ((s.transition = .append ∧ 33 ≤ s.regs.cnt) ∨
        ((s.transition = .tmoByte ∨ s.transition = .tmoWait) ∧ 33 < s.regs.cnt)))

/-- R27: every step from a good state that answers a next state answers a good one. -/
def Obligations.InvariantIsKept : Prop :=
  ∀ s t : State, s.inv = true → Sys2Proof.Machine.step s = .next t → t.inv = true

/-- R34: the state after reset is good, for every configuration that is not refused and every stimulus; so is State.reset,
whose configuration is the model's choice (notes/assumptions/3.md). -/
def Obligations.ResetStateIsGood : Prop :=
  (∀ (cfg : Config) (inputs : List Input), cfg.wf = true → (State.resetWith cfg inputs).inv = true) ∧
  Sys2Proof.Machine.State.reset.inv = true

/-- R177, R11: from every good state and for every input, the step answers a next state. -/
def Obligations.GoodStatesAlwaysStep : Prop :=
  ∀ s : State, s.inv = true → ∃ t : State, step s = .next t

/-- R27, R179: what every state reachable from reset satisfies, by its assembler state; in IDLE `cnt = 0`, so every buffer
byte is 0x00. -/
def Obligations.ReachableStatesMeetTheirInvariant : Prop :=
  ∀ s : State, Reachable s →
    (∀ a : Nat, s.regs.cnt ≤ a → s.regs.buf.read a = 0x00#8) ∧
    (s.regs.st = .idle → s.regs.cnt = 0 ∧ s.regs.crc = s.cfg.crc.init ∧ s.regs.tmr = 0) ∧
    (s.regs.st ≠ .idle → 1 ≤ s.regs.cnt ∧ s.regs.cnt ≤ 33 ∧
      (2 ≤ s.regs.cnt → s.regs.cnt ≤ (s.regs.buf.read 1 &&& 0x1F#8).toNat + 2)) ∧
    (s.regs.st = .recv → s.regs.tmr ≤ s.cfg.timeoutTicks ∧
      s.regs.crc = (s.regs.buf.bytes s.regs.cnt).foldl s.cfg.crc.step s.cfg.crc.init) ∧
    (s.regs.st = .tmo → s.regs.tmr = s.cfg.timeoutTicks + 1)

/-- R177: the step of the machine is the assembled step function on the registers, this step's inputs and the event port. -/
def Obligations.StepIsTheAssembledStepFunction : Prop :=
  ∀ s t : State, step s = .next t →
    (t.regs, t.event) = assembledStep s.cfg s.regs s.input ∧
    t.cfg = s.cfg ∧ t.inputs = s.inputs.tail ∧ t.stepNo = s.stepNo + 1

/-- R253, R251: an event is emitted exactly in a completing step, where it reports the frame whose last byte arrived, and in
a step from TMO, where it is TIMEOUT of the bytes held. -/
def Obligations.EventsBelongToTheirFrame : Prop :=
  ∀ s t : State, step s = .next t →
    (t.event.isSome = true ↔ s.transition = .complete ∨ s.transition = .tmoByte ∨ s.transition = .tmoWait) ∧
    (∀ e : Event, t.event = some e →
      e.raw = if s.regs.st = .tmo then s.regs.buf.bytes s.regs.cnt else s.regs.buf.bytes s.regs.cnt ++ [s.input.inByte])

/-- R31, R282: no run of any length changes the configuration. -/
def Obligations.ConfigurationNeverChanges : Prop :=
  ∀ (k : Nat) (s t : State) (evs : List (Nat × Event)), runTrace k s = .next (t, evs) → t.cfg = s.cfg

/-- R97, R162, R167, R170, R201, R280: what a step does not read. Two inputs with the same `rst` and, without reset, the
same `in_valid` give the same step if they agree on `in_byte` where a byte is taken, on `tick` in a RECV step that does not
complete the frame, and on `exp_fam` in the step that completes a type-1 frame with a command other than 7. -/
def Obligations.UnreadInputsDoNotMatter : Prop :=
  ∀ (s : State) (i j : Input) (rest : List Input),
    i.rst = j.rst →
    (i.rst = false → i.inValid = j.inValid) →
    (i.rst = false → i.inValid = true → i.inByte = j.inByte) →
    (i.rst = false → s.regs.st = .recv → (i.inValid = false ∨ completes s.regs i.inByte = false) → i.tick = j.tick) →
    (i.rst = false → s.regs.st = .recv → i.inValid = true → completes s.regs i.inByte = true →
      s.regs.buf.read 0 &&& 0x40#8 = 0#8 → s.regs.buf.read 1 >>> 5 ≠ 7#8 → i.expFam = j.expFam) →
    step { s with inputs := i :: rest } = step { s with inputs := j :: rest }

/-- R178 case 1 with R229, for a frame whose first byte is accepted in IDLE (R161) or in a TMO step (R170): when its last byte
arrives with at most TIMEOUT_TICKS ticks after the first byte's step and before its own, the frame completes there: exactly
one event of its own, in that step, and it is decodeFrame of the bytes. A first step from TMO emits the TIMEOUT of the bytes
held before. Gaps and ticks between the bytes are any. -/
def Obligations.FrameCompletesBeforeTheDeadline : Prop :=
  ∀ (s : State) (first : Input) (mid : List Input) (last : Input) (rest : List Input),
    s.inv = true → (s.regs.st = .idle ∨ s.regs.st = .tmo) → s.inputs = first :: mid ++ last :: rest →
    noReset (first :: mid ++ [last]) = true → first.inValid = true → last.inValid = true →
    isFrame (presented (first :: mid ++ [last])) = true → tickCount mid ≤ s.cfg.timeoutTicks →
    ∃ ev : Event, decodeFrame s.cfg (presented (first :: mid ++ [last])) last.expFam = some ev ∧
      runTrace (mid.length + 2) s = .next
        ({ s with regs := idleRegs s.cfg, event := some ev, inputs := rest, stepNo := s.stepNo + mid.length + 2 },
          pendingTimeout s ++ [(s.stepNo + mid.length + 1, ev)])

/-- R178 case 2, for a frame whose first byte is accepted in IDLE (R161) or in a TMO step (R170): when the frame is still
incomplete in the first step whose tick makes TIMEOUT_TICKS + 1 after the first byte's step, the state after it is TMO with
no event of the frame so far, and the next step emits TIMEOUT with every byte accepted. A first step from TMO emits the
TIMEOUT of the bytes held before. -/
def Obligations.FrameTimesOutAfterTheDeadline : Prop :=
  ∀ (s : State) (first : Input) (mid : List Input) (expiring after : Input) (rest : List Input),
    s.inv = true → (s.regs.st = .idle ∨ s.regs.st = .tmo) → s.inputs = first :: mid ++ expiring :: after :: rest →
    noReset (first :: mid ++ [expiring]) = true → first.inValid = true → expiring.tick = true →
    tickCount mid = s.cfg.timeoutTicks → partialFrame (presented (first :: mid ++ [expiring])) = true →
    after.rst = false →
    (∃ u : State, runTrace (mid.length + 2) s = .next (u, pendingTimeout s) ∧ u.regs.st = .tmo) ∧
    ∃ v : State, runTrace (mid.length + 3) s = .next
        (v, pendingTimeout s ++ [(s.stepNo + mid.length + 2,
          .err .timeout (addrOf (presented (first :: mid ++ [expiring]))) (presented (first :: mid ++ [expiring])))]) ∧
      v.regs = if after.inValid then firstByteRegs s.cfg after.inByte else idleRegs s.cfg

/-- R181: a frame in RECV is reported within TIMEOUT_TICKS + 1 steps with a tick and one further step, whatever bytes
arrive, unless reset intervenes: the first event of the run is of that frame (its raw bytes begin with those held), and it
reports the complete frame or is its TIMEOUT. -/
def Obligations.TicksEndEveryFrame : Prop :=
  ∀ (s : State) (ins : List Input) (further : Input) (rest : List Input),
    s.inv = true → s.regs.st = .recv → s.inputs = ins ++ further :: rest → noReset (ins ++ [further]) = true →
    tickCount ins = s.cfg.timeoutTicks + 1 →
    ∃ (t : State) (n : Nat) (ev : Event) (later : List (Nat × Event)),
      runTrace (ins.length + 1) s = .next (t, (n, ev) :: later) ∧
      s.regs.buf.bytes s.regs.cnt <+: ev.raw ∧
      (isFrame ev.raw = true ∨ ev = .err .timeout (addrOf ev.raw) ev.raw)

/-- R147: a built frame presented to an IDLE core one byte per step completes in the step of its last byte with a valid CRC,
as long as no TIMEOUT intervenes (at most TIMEOUT_TICKS ticks between its first and last step). -/
def Obligations.BuiltFrameCompletesWithValidCrc : Prop :=
  ∀ (s : State) (h : HeaderReq) (p fr : List Byte) (ins rest : List Input),
    s.inv = true → s.regs.st = .idle → buildFrame s.cfg h p = .ok fr → s.inputs = ins ++ rest →
    ins.map (fun i => i.inByte) = fr → (∀ i ∈ ins, i.rst = false ∧ i.inValid = true) →
    tickCount ins.tail.dropLast ≤ s.cfg.timeoutTicks →
    ∃ (t : State) (ev : Event), runTrace fr.length s = .next (t, [(s.stepNo + fr.length - 1, ev)]) ∧
      t.regs = idleRegs s.cfg ∧ t.inputs = rest ∧ ev.raw = fr ∧
      ∀ (a : Option (BitVec 6)) (raw : List Byte), ev ≠ .err .crcMismatch a raw

/-- R231: a type-1 frame with command 0 to 6 that encodeFrame builds decodes to OK_UNICAST with the same address, R, command,
family and payload. -/
def Obligations.FrameRoundTrip : Prop :=
  ∀ (cfg : Config) (addr : Nat) (r : BitVec 1) (len cmd : Nat) (f : Family) (p fr : List Byte), cmd ≤ 6 →
    encodeFrame cfg (.t1 addr r len cmd) f p = .ok fr →
    ∃ (h : Hdr1) (schema : SchemaId), decodeFrame cfg fr f.code = some (.okUnicast h f schema p fr) ∧
      h.addr.toNat = addr ∧ h.r = r ∧ h.cmd.toNat = cmd ∧ h.len.toNat = p.length

/-- R230, R250: encodeFrame of a type-1 command 0 to 6 gives UNKNOWN_COMMAND when there is no schema, then SIZE_MISMATCH when
the payload has not its size, and otherwise what buildFrame gives, as do a type-1 command above 6 (7 is accepted, more is
FIELD_OUT_OF_RANGE) and every broadcast, whatever the family. -/
def Obligations.EncodeFrameChecksInOrder : Prop :=
  ∀ (cfg : Config) (a : Nat) (r : BitVec 1) (len c : Nat) (f : Family) (p : List Byte),
    (c ≤ 6 → cfg.lookup f (BitVec.ofNat 3 c) r = none →
      encodeFrame cfg (.t1 a r len c) f p = .error .unknownCommand) ∧
    (∀ schema size, c ≤ 6 → cfg.lookup f (BitVec.ofNat 3 c) r = some (schema, size) → p.length ≠ size.toNat →
      encodeFrame cfg (.t1 a r len c) f p = .error .sizeMismatch) ∧
    (∀ schema size, c ≤ 6 → cfg.lookup f (BitVec.ofNat 3 c) r = some (schema, size) → p.length = size.toNat →
      encodeFrame cfg (.t1 a r len c) f p = liftEnc (buildFrame cfg (.t1 a r len c) p)) ∧
    (6 < c → encodeFrame cfg (.t1 a r len c) f p = liftEnc (buildFrame cfg (.t1 a r len c) p)) ∧
    encodeFrame cfg (.t2 a r len c) f p = liftEnc (buildFrame cfg (.t2 a r len c) p) ∧
    (∀ fr : List Byte, liftEnc (.ok fr) = .ok fr) ∧ (∀ e : EncErr, liftEnc (.error e) = .error (.enc e)) ∧
    (c = 7 → p.length ≤ 31 → a ≤ 63 → ∃ fr : List Byte, encodeFrame cfg (.t1 a r len c) f p = .ok fr) ∧
    (7 < c → p.length ≤ 31 → encodeFrame cfg (.t1 a r len c) f p = .error (.enc .fieldOutOfRange)) ∧
    (31 < p.length → encodeFrame cfg (.t2 a r len c) f p = .error (.enc .lengthOutOfRange))

/-- R242: the address recorded with an error is byte0[5:0] of a frame with byte0[6] = 0, and none otherwise. -/
def Obligations.ErrorsRecordTheUnicastAddress : Prop :=
  addrOf [] = none ∧
  ∀ (b0 : Byte) (bs : List Byte),
    (b0 &&& 0x40#8 = 0#8 → addrOf (b0 :: bs) = some ((b0 &&& 0x3F#8).setWidth 6)) ∧
    (b0 &&& 0x40#8 ≠ 0#8 → addrOf (b0 :: bs) = none)

/-- R91, R99: the event port for each kind of event, and all zeros without one; kind code 7 is never driven (R247). -/
def Obligations.EventPortCarriesTheEvent : Prop :=
  eventPort none =
    { evValid := false, evKind := 0#3, evN := 0#6, evRaw := 0#272, evAddrV := false, evAddr := 0#6, evFam := 0#3,
      evSchema := 0#5 } ∧
  (∀ (h : Hdr1) (f : Family) (sc : SchemaId) (p raw : List Byte), eventPort (some (.okUnicast h f sc p raw)) =
    { evValid := true, evKind := 0#3, evN := BitVec.ofNat 6 raw.length, evRaw := packRaw raw, evAddrV := true,
      evAddr := h.addr, evFam := f.code, evSchema := BitVec.ofNat 5 sc.id.val }) ∧
  (∀ (h : Hdr2) (p raw : List Byte), eventPort (some (.okBroadcast h p raw)) =
    { evValid := true, evKind := 1#3, evN := BitVec.ofNat 6 raw.length, evRaw := packRaw raw, evAddrV := false,
      evAddr := 0#6, evFam := 0#3, evSchema := 0#5 }) ∧
  (∀ (h : Hdr1) (p raw : List Byte), eventPort (some (.moduleError h p raw)) =
    { evValid := true, evKind := 2#3, evN := BitVec.ofNat 6 raw.length, evRaw := packRaw raw, evAddrV := true,
      evAddr := h.addr, evFam := 0#3, evSchema := 0#5 }) ∧
  (∀ (k : ErrKind) (a : Option (BitVec 6)) (raw : List Byte), eventPort (some (.err k a raw)) =
    { evValid := true
      evKind := (match k with | .crcMismatch => 3#3 | .timeout => 4#3 | .unknownCommand => 5#3 | .sizeMismatch => 6#3)
      evN := BitVec.ofNat 6 raw.length
      evRaw := packRaw raw
      evAddrV := a.isSome
      evAddr := a.getD 0#6
      evFam := 0#3
      evSchema := 0#5 }) ∧
  ∀ ev : Option Event, (eventPort ev).evKind ≠ 7#3

/-- R99: `ev_raw` carries raw byte i at bits [8i+7:8i], and 0 beyond the last byte, for every raw list that fits. -/
def Obligations.EventPortPacksTheRawBytes : Prop :=
  ∀ (raw : List Byte) (i : Nat), raw.length ≤ 34 → i < 34 →
    (packRaw raw).extractLsb' (8 * i) 8 = raw.getD i 0x00#8

/-- R98, R30: the status port of a good state; in IDLE every output is 0. -/
def Obligations.StatusPortShowsTheRegisters : Prop :=
  ∀ s : State, s.inv = true →
    (statusPort s.regs).stO = (match s.regs.st with | .idle => 0#2 | .recv => 1#2 | .tmo => 2#2) ∧
    (statusPort s.regs).cntO.toNat = s.regs.cnt ∧
    ((statusPort s.regs).busy = true ↔ s.regs.st ≠ .idle) ∧
    ((statusPort s.regs).hdrValid = true ↔ (s.regs.st = .recv ∨ s.regs.st = .tmo) ∧ 2 ≤ s.regs.cnt) ∧
    (statusPort s.regs).hdrO = s.regs.buf.read 1 ++ s.regs.buf.read 0 ∧
    (s.regs.st = .idle → (statusPort s.regs).hdrO = 0x0000#16)

/-- R262: one step of a platform is one step of each channel on its own registers and its own input, under the shared
configuration, which it does not change. -/
def Obligations.ChannelsAreIndependent : Prop :=
  ∀ (p q : Platform) (ins : List Input) (evs : List (Option Event)), p.step ins = some (q, evs) →
    q.cfg = p.cfg ∧ q.channels.length = p.channels.length ∧ evs.length = p.channels.length ∧
    ∀ (k : Nat) (g : Regs) (i : Input), p.channels[k]? = some g → ins[k]? = some i →
      q.channels[k]? = some (assembledStep p.cfg g i).1 ∧ evs[k]? = some (assembledStep p.cfg g i).2

/-- R94: the pseudo-instructions of the stimulus notation and their expansions. -/
def Obligations.PseudoInstructionsExpand : Prop :=
  ∀ (cfg : Config) (fam : BitVec 3),
    (∀ k : Nat, expandFrom cfg fam [.tTimes k] = expandFrom cfg fam (List.replicate k .t)) ∧
    (∀ k : Nat, expandFrom cfg fam [.nTimes k] = expandFrom cfg fam (List.replicate k .n)) ∧
    (∀ xs : List Byte, expandFrom cfg fam [.frame xs] = expandFrom cfg fam (xs.map .b)) ∧
    (∀ (a : Nat) (r : BitVec 1) (c : Nat) (p fr : List Byte), buildFrame cfg (.t1 a r p.length c) p = .ok fr →
      expandFrom cfg fam [.send1 a r c p] = expandFrom cfg fam [.frame fr]) ∧
    (∀ (c : Nat) (r : BitVec 1) (d : Nat) (p fr : List Byte), buildFrame cfg (.t2 c r p.length d) p = .ok fr →
      expandFrom cfg fam [.send2 c r d p] = expandFrom cfg fam [.frame fr])
end

