-- ==== Sys2Proof/Laws/Memory.lean ====
section
/-! SUPPORT. The laws of the frame buffer: read after write, the canonical form kept by every operation, and equality of
canonical buffers that read alike. -/

namespace Sys2Proof.Machine

open Sys2Proof

@[simp] theorem Memory.read_clear (i : Nat) : Memory.read Memory.clear i = 0x00#8 := rfl

@[simp] theorem Memory.read_nil (i : Nat) : Memory.read [] i = 0x00#8 := rfl

@[simp] theorem Memory.wf_clear : Memory.wf Memory.clear = true := rfl

@[simp] theorem Memory.below_clear (n : Nat) : Memory.below Memory.clear n = true := rfl

@[simp] theorem Memory.fromIndex_nil (n : Nat) : Memory.fromIndex n [] = true := rfl

@[simp] theorem Memory.fromIndex_cons (n : Nat) (c : Host.Cell) (m : Memory) :
    Memory.fromIndex n (c :: m) = true ↔ n ≤ c.1 ∧ Memory.fromIndex n m = true := by
  simp [Memory.fromIndex]

@[simp] theorem Memory.below_cons (c : Host.Cell) (m : Memory) (n : Nat) :
    Memory.below (c :: m) n = true ↔ c.1 < n ∧ Memory.below m n = true := by
  simp [Memory.below]

@[simp] theorem Memory.wf_cons (a : Nat) (v : Byte) (m : Memory) :
    Memory.wf ((a, v) :: m) = true ↔
      v ≠ Memory.unlisted ∧ Memory.fromIndex (a + 1) m = true ∧ Memory.wf m = true := by
  simp [Memory.wf, and_assoc]

theorem Memory.fromIndex_mono {n k : Nat} (h : k ≤ n) :
    ∀ {m : Memory}, Memory.fromIndex n m = true → Memory.fromIndex k m = true
  | [], _ => rfl
  | c :: m, hm => by
    rw [Memory.fromIndex_cons] at hm ⊢
    exact ⟨h.trans hm.1, Memory.fromIndex_mono h hm.2⟩

theorem Memory.below_mono {n k : Nat} (h : n ≤ k) :
    ∀ {m : Memory}, Memory.below m n = true → Memory.below m k = true
  | [], _ => rfl
  | c :: m, hm => by
    rw [Memory.below_cons] at hm ⊢
    exact ⟨hm.1.trans_le h, Memory.below_mono h hm.2⟩

/-- A buffer whose cells start at `n` reads as cleared before `n`. -/
theorem Memory.read_of_fromIndex {n i : Nat} (hi : i < n) :
    ∀ {m : Memory}, Memory.fromIndex n m = true → m.read i = 0x00#8
  | [], _ => rfl
  | (a, v) :: m, hm => by
    rw [Memory.fromIndex_cons] at hm
    have : ¬ a = i := by have := hm.1; simp only at this; omega
    rw [Memory.read, if_neg this]
    exact Memory.read_of_fromIndex hi hm.2

/-- R22: a buffer whose cells end before `n` reads as cleared from `n` on. -/
theorem Memory.read_of_below {n i : Nat} (hi : n ≤ i) :
    ∀ {m : Memory}, Memory.below m n = true → m.read i = 0x00#8
  | [], _ => rfl
  | (a, v) :: m, hm => by
    rw [Memory.below_cons] at hm
    have : ¬ a = i := by have := hm.1; simp only at this; omega
    rw [Memory.read, if_neg this]
    exact Memory.read_of_below hi hm.2

theorem Memory.fromIndex_write {n i : Nat} {v : Byte} (hi : n ≤ i) :
    ∀ {m : Memory}, Memory.fromIndex n m = true → Memory.fromIndex n (m.write i v) = true
  | [], _ => by
    rw [Memory.write]; split
    · rfl
    · simp [hi]
  | (a, w) :: m, hm => by
    have hm' := hm
    rw [Memory.fromIndex_cons] at hm
    simp only [Memory.write]
    split
    · split
      · exact hm'
      · simp [hi, hm.1, hm.2]
    · split
      · split
        · exact hm.2
        · simp [hi, hm.2]
      · simp [hm.1, Memory.fromIndex_write hi hm.2]

/-- Every write keeps the canonical form. -/
theorem Memory.wf_write (i : Nat) (v : Byte) :
    ∀ {m : Memory}, m.wf = true → (m.write i v).wf = true
  | [], _ => by
    rw [Memory.write]; split
    · rfl
    · rename_i h; simp [h, Memory.wf]
  | (a, w) :: m, hm => by
    have hm' := hm
    rw [Memory.wf_cons] at hm
    simp only [Memory.write]
    split
    · split
      · exact hm'
      · rename_i hia hv
        rw [Memory.wf_cons]
        refine ⟨hv, ?_, hm'⟩
        rw [Memory.fromIndex_cons]
        exact ⟨hia, Memory.fromIndex_mono (by omega) hm.2.1⟩
    · split
      · rename_i hia
        split
        · exact hm.2.2
        · rename_i hv
          rw [Memory.wf_cons]
          exact ⟨hv, by rw [hia]; exact hm.2.1, hm.2.2⟩
      · rw [Memory.wf_cons]
        exact ⟨hm.1, Memory.fromIndex_write (by omega) hm.2.1, Memory.wf_write i v hm.2.2⟩

/-- A write below `n` keeps every cell below `n`. -/
theorem Memory.below_write {n i : Nat} {v : Byte} (hi : i < n) :
    ∀ {m : Memory}, Memory.below m n = true → Memory.below (m.write i v) n = true
  | [], _ => by
    rw [Memory.write]; split
    · rfl
    · simp [Memory.below, hi]
  | (a, w) :: m, hm => by
    have hm' := hm
    rw [Memory.below_cons] at hm
    simp only [Memory.write]
    split
    · split
      · exact hm'
      · rw [Memory.below_cons]; exact ⟨hi, hm'⟩
    · split
      · split
        · exact hm.2
        · rw [Memory.below_cons]; exact ⟨hi, hm.2⟩
      · rw [Memory.below_cons]; exact ⟨hm.1, Memory.below_write hi hm.2⟩

/-- What a canonical buffer reads as after a write: the byte written there, and what it was elsewhere. -/
theorem Memory.read_write (i : Nat) (v : Byte) (k : Nat) :
    ∀ {m : Memory}, m.wf = true → (m.write i v).read k = if k = i then v else m.read k
  | [], _ => by
    simp only [Memory.write]
    split
    · rename_i h; simp [h, Memory.read, Memory.unlisted]
    · simp [Memory.read, eq_comm]
  | (a, w) :: m, hm => by
    rw [Memory.wf_cons] at hm
    have front : ∀ x, x ≤ a → Memory.read m x = 0x00#8 := fun x hx => Memory.read_of_fromIndex (by omega) hm.2.1
    simp only [Memory.write]
    split
    · rename_i hia
      split
      · rename_i hv
        by_cases hk : k = i
        · subst hk
          rw [if_pos rfl, Memory.read, if_neg (by omega), front _ (by omega), hv]; rfl
        · rw [if_neg hk]
      · by_cases hk : k = i
        · subst hk; simp [Memory.read]
        · rw [if_neg hk, Memory.read, if_neg (Ne.symm hk)]
    · split
      · rename_i hia; subst hia
        split
        · rename_i hv
          by_cases hk : k = i
          · subst hk; rw [if_pos rfl, front _ le_rfl, hv]; rfl
          · rw [if_neg hk, Memory.read, if_neg (Ne.symm hk)]
        · by_cases hk : k = i
          · subst hk; simp [Memory.read]
          · rw [if_neg hk, Memory.read, Memory.read, if_neg (Ne.symm hk), if_neg (Ne.symm hk)]
      · rename_i h1 h2
        by_cases hak : a = k
        · subst hak
          rw [Memory.read, if_pos rfl, if_neg (by omega), Memory.read, if_pos rfl]
        · rw [Memory.read, if_neg hak, Memory.read_write i v k hm.2.2, Memory.read, if_neg hak]

theorem Memory.read_write_same {m : Memory} (h : m.wf = true) (i : Nat) (v : Byte) : (m.write i v).read i = v := by
  rw [Memory.read_write i v i h, if_pos rfl]

theorem Memory.read_write_other {m : Memory} (h : m.wf = true) {i k : Nat} (v : Byte) (hk : k ≠ i) :
    (m.write i v).read k = m.read k := by
  rw [Memory.read_write i v k h, if_neg hk]

/-- Canonical buffers that read alike are equal. -/
theorem Memory.eq_of_read_eq :
    ∀ {m n : Memory}, m.wf = true → n.wf = true → (∀ i, m.read i = n.read i) → m = n
  | [], [], _, _, _ => rfl
  | [], (b, w) :: n, _, hn, h => by
    rw [Memory.wf_cons] at hn
    exact absurd (by simpa [Memory.read] using (h b).symm) hn.1
  | (a, v) :: m, [], hm, _, h => by
    rw [Memory.wf_cons] at hm
    exact absurd (by simpa [Memory.read] using h a) hm.1
  | (a, v) :: m, (b, w) :: n, hm, hn, h => by
    rw [Memory.wf_cons] at hm hn
    have frontM : ∀ x, x ≤ a → Memory.read m x = 0x00#8 := fun x hx => Memory.read_of_fromIndex (by omega) hm.2.1
    have frontN : ∀ x, x ≤ b → Memory.read n x = 0x00#8 := fun x hx => Memory.read_of_fromIndex (by omega) hn.2.1
    have hab : a = b := by
      rcases lt_trichotomy a b with hlt | heq | hgt
      · have := h a
        rw [Memory.read, if_pos rfl, Memory.read, if_neg (by omega), frontN a (by omega)] at this
        exact absurd this hm.1
      · exact heq
      · have := h b
        rw [Memory.read, if_neg (by omega), frontM b (by omega), Memory.read, if_pos rfl] at this
        exact absurd this.symm hn.1
    subst hab
    have hvw : v = w := by simpa [Memory.read] using h a
    subst hvw
    have : m = n := Memory.eq_of_read_eq hm.2.2 hn.2.2 fun i => by
      by_cases hi : a = i
      · subst hi; rw [frontM a le_rfl, frontN a le_rfl]
      · simpa [Memory.read, hi] using h i
    rw [this]

@[simp] theorem Memory.bytes_length (m : Memory) (n : Nat) : (m.bytes n).length = n := by
  simp [Memory.bytes]

@[simp] theorem Memory.bytes_zero (m : Memory) : m.bytes 0 = [] := rfl

theorem Memory.bytes_succ (m : Memory) (n : Nat) : m.bytes (n + 1) = m.bytes n ++ [m.read n] := by
  simp [Memory.bytes, List.range_succ]

theorem Memory.bytes_getD {m : Memory} {n i : Nat} (h : i < n) (d : Byte) : (m.bytes n).getD i d = m.read i := by
  simp [Memory.bytes, List.getD, h]

/-- R166: appending at the end adds one byte to the bytes held. -/
theorem Memory.bytes_write_end {m : Memory} (h : m.wf = true) (n : Nat) (v : Byte) :
    (m.write n v).bytes (n + 1) = m.bytes n ++ [v] := by
  rw [Memory.bytes_succ, Memory.read_write_same h]
  congr 1
  refine List.map_congr_left fun i hi => ?_
  exact Memory.read_write_other h v (by have := List.mem_range.mp hi; omega)

theorem storeBytes_wf (bs : List Byte) : ∀ {m : Memory} (i : Nat), m.wf = true → (storeBytes m i bs).wf = true := by
  induction bs with
  | nil => intro m i h; exact h
  | cons b bs ih => intro m i h; exact ih (i + 1) (Memory.wf_write i b h)

/-- The registers that withFetchWord sets hold a canonical buffer. -/
theorem recvHolding_wf (cfg : Config) (body : List Byte) : (recvHolding cfg body).buf.wf = true :=
  storeBytes_wf body 0 rfl

@[simp] theorem idleRegs_buf_wf (cfg : Config) : (idleRegs cfg).buf.wf = true := rfl

@[simp] theorem firstByteRegs_buf_wf (cfg : Config) (b : Byte) : (firstByteRegs cfg b).buf.wf = true :=
  Memory.wf_write 0 b rfl

end Sys2Proof.Machine
end

