-- ==== Sys2Proof/Laws/State.lean ====
section
/-! SUPPORT. One lemma per field per update of the state and of the registers. -/

namespace Sys2Proof.Machine

open Sys2Proof

section registers
variable (cfg : Config) (b : Byte) (g : Regs) (i : Input)

@[simp] theorem idleRegs_st : (idleRegs cfg).st = .idle := rfl
@[simp] theorem idleRegs_buf : (idleRegs cfg).buf = [] := rfl
@[simp] theorem idleRegs_cnt : (idleRegs cfg).cnt = 0 := rfl
@[simp] theorem idleRegs_crc : (idleRegs cfg).crc = cfg.crc.init := rfl
@[simp] theorem idleRegs_tmr : (idleRegs cfg).tmr = 0 := rfl
@[simp] theorem firstByteRegs_st : (firstByteRegs cfg b).st = .recv := rfl
@[simp] theorem firstByteRegs_buf : (firstByteRegs cfg b).buf = Memory.write [] 0 b := rfl
@[simp] theorem firstByteRegs_cnt : (firstByteRegs cfg b).cnt = 1 := rfl
@[simp] theorem firstByteRegs_crc : (firstByteRegs cfg b).crc = cfg.crc.step cfg.crc.init b := rfl
@[simp] theorem firstByteRegs_tmr : (firstByteRegs cfg b).tmr = 0 := rfl
@[simp] theorem appendRegs_st : (appendRegs cfg g i).st = expiry cfg (timerNext cfg g.tmr i.tick) := rfl
@[simp] theorem appendRegs_buf : (appendRegs cfg g i).buf = g.buf.write g.cnt i.inByte := rfl
@[simp] theorem appendRegs_cnt : (appendRegs cfg g i).cnt = g.cnt + 1 := rfl
@[simp] theorem appendRegs_crc : (appendRegs cfg g i).crc = cfg.crc.step g.crc i.inByte := rfl
@[simp] theorem appendRegs_tmr : (appendRegs cfg g i).tmr = timerNext cfg g.tmr i.tick := rfl
@[simp] theorem recvWaitRegs_st : (recvWaitRegs cfg g i).st = expiry cfg (timerNext cfg g.tmr i.tick) := rfl
@[simp] theorem recvWaitRegs_buf : (recvWaitRegs cfg g i).buf = g.buf := rfl
@[simp] theorem recvWaitRegs_cnt : (recvWaitRegs cfg g i).cnt = g.cnt := rfl
@[simp] theorem recvWaitRegs_crc : (recvWaitRegs cfg g i).crc = g.crc := rfl
@[simp] theorem recvWaitRegs_tmr : (recvWaitRegs cfg g i).tmr = timerNext cfg g.tmr i.tick := rfl

end registers

section state
variable (s : State) (next : Regs) (ev : Option Event) (cfg : Config) (ins : List Input)

@[simp] theorem finish_cfg : (s.finish next ev).cfg = s.cfg := rfl
@[simp] theorem finish_regs : (s.finish next ev).regs = next := rfl
@[simp] theorem finish_event : (s.finish next ev).event = ev := rfl
@[simp] theorem finish_inputs : (s.finish next ev).inputs = s.inputs.tail := rfl
@[simp] theorem finish_stepNo : (s.finish next ev).stepNo = s.stepNo + 1 := rfl
@[simp] theorem resetWith_cfg : (State.resetWith cfg ins).cfg = cfg := rfl
@[simp] theorem resetWith_regs : (State.resetWith cfg ins).regs = idleRegs cfg := rfl
@[simp] theorem resetWith_event : (State.resetWith cfg ins).event = none := rfl
@[simp] theorem resetWith_inputs : (State.resetWith cfg ins).inputs = ins := rfl
@[simp] theorem resetWith_stepNo : (State.resetWith cfg ins).stepNo = 0 := rfl

/-- The input of a step is the head of the stimulus. -/
theorem input_of_cons {i : Input} {is : List Input} (h : s.inputs = i :: is) : s.input = i := by
  simp [State.input, h]

end state

end Sys2Proof.Machine
end

