-- ==== Sys2Proof/Laws/Ops.lean ====
section
/-! SUPPORT. What each shared operation can do, said once, and the inversion of one step. -/

namespace Sys2Proof.Machine

open Sys2Proof

/-- R241: what raising an error does. -/
theorem raiseError_eq (kind : ErrKind) (addr : Option (BitVec 6)) (raw : List Byte) (next : Regs) (s : State) :
    raiseError kind addr raw next s = s.finish next (some (.err kind addr raw)) := rfl

/-- R254: what delivering a frame does. -/
theorem deliver_eq (ev : Event) (s : State) : deliver ev s = s.finish (idleRegs s.cfg) (some ev) := rfl

/-- R200, first branch: CRC_MISMATCH, or the given state. -/
theorem ifCrcOk_cases (s valid : State) :
    (s.crcOk = true ∧ ifCrcOk s valid = valid) ∨
    (s.crcOk = false ∧
      ifCrcOk s valid = s.finish (idleRegs s.cfg) (some (.err .crcMismatch (addrOf s.raw) s.raw))) := by
  cases h : s.crcOk
  · exact .inr ⟨rfl, by simp [ifCrcOk, h, raiseError]⟩
  · exact .inl ⟨rfl, by simp [ifCrcOk, h]⟩

/-- R245: what UNKNOWN_COMMAND does. -/
theorem unknownCommand_eq (addr : Option (BitVec 6)) (s : State) :
    unknownCommand addr s = s.finish (idleRegs s.cfg) (some (.err .unknownCommand addr s.raw)) := rfl

/-- R211: the four outcomes of the unicast registry path. -/
theorem dispatchUnicast_cases (h : Hdr1) (s : State) :
    (famOf s.input.expFam = none ∧ dispatchUnicast h s = unknownCommand (some h.addr) s) ∨
    (∃ f, famOf s.input.expFam = some f ∧ s.cfg.lookup f h.cmd h.r = none ∧
      dispatchUnicast h s = unknownCommand (some h.addr) s) ∨
    (∃ f schema size, famOf s.input.expFam = some f ∧ s.cfg.lookup f h.cmd h.r = some (schema, size) ∧
      h.len ≠ size ∧
      dispatchUnicast h s = s.finish (idleRegs s.cfg) (some (.err .sizeMismatch (some h.addr) s.raw))) ∨
    (∃ f schema, famOf s.input.expFam = some f ∧ s.cfg.lookup f h.cmd h.r = some (schema, h.len) ∧
      dispatchUnicast h s =
        s.finish (idleRegs s.cfg) (some (.okUnicast h f schema (payloadOf s.raw) s.raw))) := by
  unfold dispatchUnicast
  split
  · rename_i hf; exact .inl ⟨hf, rfl⟩
  · rename_i f hf
    split
    · rename_i hl; exact .inr (.inl ⟨f, hf, hl, rfl⟩)
    · rename_i schema size hl
      by_cases hs : h.len = size
      · subst hs
        exact .inr (.inr (.inr ⟨f, schema, hf, hl, by simp [deliver]⟩))
      · exact .inr (.inr (.inl ⟨f, schema, size, hf, hl, hs, by simp [hs, raiseError]⟩))

/-- R220: what the broadcast path does. -/
theorem dispatchBroadcast_eq (h : Hdr2) (s : State) :
    dispatchBroadcast h s = s.finish (idleRegs s.cfg) (some (.okBroadcast h (payloadOf s.raw) s.raw)) := rfl

/-- R163: what the timer does. -/
theorem timerNext_le (cfg : Config) {tmr : Nat} (tick : Bool) (h : tmr ≤ cfg.timeoutTicks) :
    timerNext cfg tmr tick ≤ cfg.timeoutTicks + 1 := by
  unfold timerNext; split <;> omega

/-- R168: when the frame expires. -/
theorem expiry_cases (cfg : Config) (tmr : Nat) :
    (cfg.timeoutTicks < tmr ∧ expiry cfg tmr = .tmo) ∨ (tmr ≤ cfg.timeoutTicks ∧ expiry cfg tmr = .recv) := by
  unfold expiry
  by_cases h : cfg.timeoutTicks < tmr
  · exact .inl ⟨h, by simp [h]⟩
  · exact .inr ⟨by omega, by simp [h]⟩

/-- R166: what an append can answer. -/
theorem appendStep_next {s t : State} (h : appendStep s = .next t) :
    s.regs.cnt < bufBytes ∧ t = s.finish (appendRegs s.cfg s.regs s.input) none := by
  unfold appendStep at h
  split at h
  · rename_i hc; cases h; exact ⟨hc, rfl⟩
  · cases h

/-- R170, R171: what a timeout report can answer. -/
theorem timeoutStep_next {next : Regs} {s t : State} (h : timeoutStep next s = .next t) :
    s.regs.cnt ≤ bufBytes ∧
      t = s.finish next (some (.err .timeout (addrOf (heldBytes s.regs)) (heldBytes s.regs))) := by
  unfold timeoutStep at h
  split at h
  · rename_i hc; cases h; exact ⟨hc, rfl⟩
  · cases h

/-- R160: everything that a step answering a next state can have done. -/
theorem step_cases {s t : State} (h : step s = .next t) :
    s.cfg.wf = true ∧
    ((s.transition = .reset ∧ t = s.finish (idleRegs s.cfg) none) ∨
     (s.transition = .idleByte ∧ t = s.finish (firstByteRegs s.cfg s.input.inByte) none) ∨
     (s.transition = .idleWait ∧ t = s.finish s.regs none) ∨
     (s.transition = .append ∧ s.regs.cnt < bufBytes ∧ t = s.finish (appendRegs s.cfg s.regs s.input) none) ∨
     (s.transition = .complete ∧ exec s.fetch s = .next t) ∨
     (s.transition = .recvWait ∧ t = s.finish (recvWaitRegs s.cfg s.regs s.input) none) ∨
     (s.transition = .tmoByte ∧ s.regs.cnt ≤ bufBytes ∧
       t = s.finish (firstByteRegs s.cfg s.input.inByte)
         (some (.err .timeout (addrOf (heldBytes s.regs)) (heldBytes s.regs)))) ∨
     (s.transition = .tmoWait ∧ s.regs.cnt ≤ bufBytes ∧
       t = s.finish (idleRegs s.cfg) (some (.err .timeout (addrOf (heldBytes s.regs)) (heldBytes s.regs))))) := by
  unfold step at h
  split at h
  · rename_i hwf
    refine ⟨hwf, ?_⟩
    cases ht : s.transition <;> rw [ht] at h <;> simp only at h
    · cases h; simp [resetStep]
    · cases h; simp [idleByteStep]
    · cases h; simp [idleWaitStep]
    · simpa using appendStep_next h
    · simpa using h
    · cases h; simp [recvWaitStep]
    · simpa using timeoutStep_next h
    · simpa using timeoutStep_next h
  · cases h

/-- R160: when each transition is taken. -/
theorem transition_cases (s : State) :
    (s.input.rst = true ∧ s.transition = .reset) ∨
    (s.input.rst = false ∧
      ((s.regs.st = .idle ∧ s.transition = if s.input.inValid then .idleByte else .idleWait) ∨
       (s.regs.st = .recv ∧ s.transition =
         if s.input.inValid then (if completes s.regs s.input.inByte then .complete else .append) else .recvWait) ∨
       (s.regs.st = .tmo ∧ s.transition = if s.input.inValid then .tmoByte else .tmoWait))) := by
  unfold State.transition transitionOf
  cases hr : s.input.rst
  · cases hs : s.regs.st <;> simp
  · simp

/-- R161: a first byte in IDLE comes with no event. -/
@[simp] theorem pendingTimeout_of_idle {s : State} (h : s.regs.st = .idle) : pendingTimeout s = [] := by
  simp [pendingTimeout, h]

/-- R170: a first byte in TMO comes with the TIMEOUT of the bytes held before. -/
@[simp] theorem pendingTimeout_of_tmo {s : State} (h : s.regs.st = .tmo) :
    pendingTimeout s = [(s.stepNo, .err .timeout (addrOf (heldBytes s.regs)) (heldBytes s.regs))] := by
  simp [pendingTimeout, h]

end Sys2Proof.Machine
end

