-- ==== Sys2Proof/Laws/PerInstr.lean ====
section
/-! SUPPORT. A statement made for every instruction: its encoded word is of its own row of the opcode map (R80). -/

namespace Sys2Proof.Laws

open Sys2Proof

/-- R80, columns mask and match, by row. -/
def rowOf : Instr → HeaderWord × HeaderWord
  | .data _ _ _ => (0xE040#16, 0x0000#16)
  | .cfg _ _ _ => (0xE040#16, 0x2000#16)
  | .data2 _ _ _ => (0xE040#16, 0x4000#16)
  | .data3 _ _ _ => (0xE040#16, 0x6000#16)
  | .data4 _ _ _ => (0xE040#16, 0x8000#16)
  | .data5 _ _ _ => (0xE040#16, 0xA000#16)
  | .data6 _ _ _ => (0xE040#16, 0xC000#16)
  | .errResponse _ _ => (0xE0C0#16, 0xE080#16)
  | .errRequest _ _ => (0xE0C0#16, 0xE000#16)
  | .undef0 _ _ _ => (0x007F#16, 0x0040#16)
  | .undef1 _ _ _ => (0x007F#16, 0x0041#16)
  | .gotoGateProtocol _ _ _ => (0x007F#16, 0x007F#16)
  | .broadcastReserved _ _ _ _ => (0x0040#16, 0x0040#16)

/-- R80: `(hw & mask) == match` for the row of the instruction. -/
def RowMatches.Statement (i : Instr) : Prop := encode i &&& (rowOf i).1 = (rowOf i).2

/-- A type-1 word under the mask of T and CMD. -/
theorem packType1_mask (cmd : BitVec 3) (len : BitVec 5) (r : BitVec 1) (addr : BitVec 6) :
    packType1 cmd len r addr &&& 0xE040#16 = cmd ++ 0#13 := by
  refine BitVec.eq_of_getLsbD_eq fun k hk => ?_
  simp only [packType1, BitVec.getLsbD_and, BitVec.getLsbD_append]
  interval_cases k <;> simp

/-- A type-1 word under the mask of T, R and CMD. -/
theorem packType1_mask_r (cmd : BitVec 3) (len : BitVec 5) (r : BitVec 1) (addr : BitVec 6) :
    packType1 cmd len r addr &&& 0xE0C0#16 = cmd ++ 0#5 ++ r ++ 0#7 := by
  refine BitVec.eq_of_getLsbD_eq fun k hk => ?_
  simp only [packType1, BitVec.getLsbD_and, BitVec.getLsbD_append]
  interval_cases k <;> simp

/-- A type-2 word under the mask of T and CMD6. -/
theorem packType2_mask (dp1 : BitVec 3) (len : BitVec 5) (r : BitVec 1) (cmd6 : BitVec 6) :
    packType2 dp1 len r cmd6 &&& 0x007F#16 = 0#9 ++ 1#1 ++ cmd6 := by
  refine BitVec.eq_of_getLsbD_eq fun k hk => ?_
  simp only [packType2, BitVec.getLsbD_and, BitVec.getLsbD_append]
  interval_cases k <;> simp

/-- A type-2 word under the mask of T. -/
theorem packType2_mask_t (dp1 : BitVec 3) (len : BitVec 5) (r : BitVec 1) (cmd6 : BitVec 6) :
    packType2 dp1 len r cmd6 &&& 0x0040#16 = 0x0040#16 := by
  refine BitVec.eq_of_getLsbD_eq fun k hk => ?_
  simp only [packType2, BitVec.getLsbD_and, BitVec.getLsbD_append]
  interval_cases k <;> simp

theorem RowMatches.data (addr : BitVec 6) (r : BitVec 1) (len : BitVec 5) :
    RowMatches.Statement (.data addr r len) := packType1_mask 0#3 len r addr

theorem RowMatches.cfg (addr : BitVec 6) (r : BitVec 1) (len : BitVec 5) :
    RowMatches.Statement (.cfg addr r len) := packType1_mask 1#3 len r addr

theorem RowMatches.data2 (addr : BitVec 6) (r : BitVec 1) (len : BitVec 5) :
    RowMatches.Statement (.data2 addr r len) := packType1_mask 2#3 len r addr

theorem RowMatches.data3 (addr : BitVec 6) (r : BitVec 1) (len : BitVec 5) :
    RowMatches.Statement (.data3 addr r len) := packType1_mask 3#3 len r addr

theorem RowMatches.data4 (addr : BitVec 6) (r : BitVec 1) (len : BitVec 5) :
    RowMatches.Statement (.data4 addr r len) := packType1_mask 4#3 len r addr

theorem RowMatches.data5 (addr : BitVec 6) (r : BitVec 1) (len : BitVec 5) :
    RowMatches.Statement (.data5 addr r len) := packType1_mask 5#3 len r addr

theorem RowMatches.data6 (addr : BitVec 6) (r : BitVec 1) (len : BitVec 5) :
    RowMatches.Statement (.data6 addr r len) := packType1_mask 6#3 len r addr

theorem RowMatches.errResponse (addr : BitVec 6) (len : BitVec 5) :
    RowMatches.Statement (.errResponse addr len) := packType1_mask_r 7#3 len 1#1 addr

theorem RowMatches.errRequest (addr : BitVec 6) (len : BitVec 5) :
    RowMatches.Statement (.errRequest addr len) := packType1_mask_r 7#3 len 0#1 addr

theorem RowMatches.undef0 (r : BitVec 1) (len : BitVec 5) (dp1 : BitVec 3) :
    RowMatches.Statement (.undef0 r len dp1) := packType2_mask dp1 len r 0x00#6

theorem RowMatches.undef1 (r : BitVec 1) (len : BitVec 5) (dp1 : BitVec 3) :
    RowMatches.Statement (.undef1 r len dp1) := packType2_mask dp1 len r 0x01#6

theorem RowMatches.gotoGateProtocol (r : BitVec 1) (len : BitVec 5) (dp1 : BitVec 3) :
    RowMatches.Statement (.gotoGateProtocol r len dp1) := packType2_mask dp1 len r 0x3F#6

theorem RowMatches.broadcastReserved (cmd6 : BitVec 6) (r : BitVec 1) (len : BitVec 5) (dp1 : BitVec 3) :
    RowMatches.Statement (.broadcastReserved cmd6 r len dp1) := packType2_mask_t dp1 len r cmd6

end Sys2Proof.Laws
end

