-- ==== Sys2Proof/Tests/Slice0.lean ====
section
/-! SUPPORT. Tests of one function or one step, their expected values from spec/95_test_vectors.md or from the rules, and a
witness for every statement that has hypotheses. -/

set_option Elab.async false

namespace Sys2Proof.Tests

open Sys2Proof Sys2Proof.Machine

/-! ## Well-formedness and decoding -/

/-- The one check of WellFormed refuses each command that another type-2 row names (R79, R80). -/
theorem test_reserved_row_refuses_defined_commands :
    (Instr.broadcastReserved 0x00#6 0#1 0#5 0#3).wf = false ∧ (Instr.broadcastReserved 0x01#6 0#1 0#5 0#3).wf = false ∧
    (Instr.broadcastReserved 0x3F#6 0#1 0#5 0#3).wf = false ∧ (Instr.broadcastReserved 0x3E#6 0#1 0#5 0#3).wf = true := by
  decide

/-- R80, pattern `000LLLLLr0aaaaaa`: addr 42, r 1, len 21. -/
theorem test_decode_data : decodeWord 0b0001010110101010#16 = .data 42#6 1#1 21#5 := by decide

/-- R80, pattern `001LLLLLr0aaaaaa`. -/
theorem test_decode_cfg : decodeWord 0b0011010100000001#16 = .cfg 1#6 0#1 21#5 := by decide

/-- R80, pattern `010LLLLLr0aaaaaa`. -/
theorem test_decode_data2 : decodeWord 0b0101001010000101#16 = .data2 5#6 1#1 18#5 := by decide

/-- R80, pattern `011LLLLLr0aaaaaa`. -/
theorem test_decode_data3 : decodeWord 0b0110001000000101#16 = .data3 5#6 0#1 2#5 := by decide

/-- R80, pattern `100LLLLLr0aaaaaa`. -/
theorem test_decode_data4 : decodeWord 0b1000011000001001#16 = .data4 9#6 0#1 6#5 := by decide

/-- R80, pattern `101LLLLLr0aaaaaa`. -/
theorem test_decode_data5 : decodeWord 0b1011111110111111#16 = .data5 63#6 1#1 31#5 := by decide

/-- R80, pattern `110LLLLLr0aaaaaa`. -/
theorem test_decode_data6 : decodeWord 0b1100000000000101#16 = .data6 5#6 0#1 0#5 := by decide

/-- R80, pattern `111LLLLL10aaaaaa`. -/
theorem test_decode_err_response : decodeWord 0b1111111110111111#16 = .errResponse 63#6 31#5 := by decide

/-- R80, pattern `111LLLLL00aaaaaa`. -/
theorem test_decode_err_request : decodeWord 0b1110000000000101#16 = .errRequest 5#6 0#5 := by decide

/-- R80, pattern `dddLLLLLr1000000`. -/
theorem test_decode_undef0 : decodeWord 0b1010001111000000#16 = .undef0 1#1 3#5 5#3 := by decide

/-- R80, pattern `dddLLLLLr1000001`; 95 section 2.2, `41 A3`. -/
theorem test_decode_undef1 : decode [0x41#8, 0xA3#8, 0x11#8] = .ok (.undef1 0#1 3#5 5#3, [0x11#8]) := by decide

/-- R80, pattern `dddLLLLLr1111111`; 95 section 2.2, `FF FF`. -/
theorem test_decode_goto_gate_protocol :
    decodeWord 0b1111111111111111#16 = .gotoGateProtocol 1#1 31#5 7#3 := by decide

/-- R80, the reserved row; 95 section 2.2, `C2 1F`. -/
theorem test_decode_broadcast_reserved :
    decodeWord 0b0001111111000010#16 = .broadcastReserved 2#6 1#1 31#5 0#3 := by decide

/-- R70: a header is two bytes; one byte is refused by name. -/
theorem test_decode_refuses_one_byte : decode [0x05#8] = .error .headerTooShort := by decide

/-- The table's numbering: byte0 is the low byte of the word. -/
theorem test_decode_table_word : decodeTableWord 16 0xA341 = some (.undef1 0#1 3#5 5#3) := by decide

/-- 95 section 2.2: `85 E0` and `C2 1F`. -/
theorem test_decode_header :
    decodeHeader 0x85#8 0xE0#8 = .t1 { addr := 5#6, r := 1#1, len := 0#5, cmd := 7#3 } ∧
    decodeHeader 0xC2#8 0x1F#8 = .t2 { cmd6 := 2#6, r := 1#1, len := 31#5, dp1 := 0#3 } := by decide

/-- 95 section 2.2, encode: the length is checked first, and no field is cut off. -/
theorem test_encode_header :
    encodeHeader (.t1 63 1#1 31 7) = .ok (0xBF#8, 0xFF#8) ∧ encodeHeader (.t2 1 0#1 3 5) = .ok (0x41#8, 0xA3#8) ∧
    encodeHeader (.t1 64 0#1 32 8) = .error .lengthOutOfRange ∧
    encodeHeader (.t1 64 0#1 0 0) = .error .fieldOutOfRange ∧
    encodeHeader (.t2 0 0#1 0 8) = .error .fieldOutOfRange := by decide

/-! ## CRC, registry and frames -/

/-- 95 section 2.1, SMBUS and MAXIM check values over "123456789", and the default. -/
theorem test_crc8 :
    let digits := [0x31#8, 0x32#8, 0x33#8, 0x34#8, 0x35#8, 0x36#8, 0x37#8, 0x38#8, 0x39#8]
    (Crc.params ⟨0x07#8, 0x00#8, false, false, 0x00#8⟩).crc8 digits = 0xF4#8 ∧
    (Crc.params ⟨0x31#8, 0x00#8, true, true, 0x00#8⟩).crc8 digits = 0xA1#8 ∧ Crc.default.crc8 digits = 0x31#8 := by
  decide +kernel

/-- R112: a zero polynomial is refused. -/
theorem test_crc_zero_polynomial : (Crc.params ⟨0x00#8, 0x00#8, false, false, 0x00#8⟩).wf = false := by decide

/-- R206, R208 in the fixture: a request of size 2 at (DIO, request, 0), nothing at command 5. -/
theorem test_lookup :
    Config.fixture.lookup .dio 0#3 0#1 = some (.dioReq, 2#5) ∧ Config.fixture.lookup .dio 5#3 0#1 = none ∧
    Config.fixture.lookup .ro 2#3 1#1 = some (.roCountersResp, 31#5) := by decide +kernel

/-- R54: valid, schema 25 and size 31 at (RO, response, 2). -/
theorem test_rom_word : Config.fixture.romRead (romAddress 4#3 1#1 2#3) = 0b11100111111#11 := by decide +kernel

/-- 95 section 2.4: encodeFrame, a frame and the order of its errors. -/
theorem test_encode_frame :
    encodeFrame Config.fixture (.t1 5 0#1 9 0) .dio [0x00#8, 0x01#8] =
      .ok [0x05#8, 0x02#8, 0x00#8, 0x01#8, 0x06#8] ∧
    encodeFrame Config.fixture (.t1 5 0#1 0 0) .dio [0x00#8] = .error .sizeMismatch ∧
    encodeFrame Config.fixture (.t1 64 0#1 0 0) .dio [0x00#8, 0x01#8] = .error (.enc .fieldOutOfRange) ∧
    encodeFrame Config.fixture (.t1 5 0#1 0 5) .dio [] = .error .unknownCommand := by decide +kernel

/-- R93: the lines of 95 program P3 around its timeout. -/
theorem test_expand :
    expand Config.fixture [.fam 4#3, .b 0x05#8, .tTimes 2, .bt 0x42#8] =
      .ok [byteInput 4#3 false 0x05#8, gapInput 4#3 true, gapInput 4#3 true, byteInput 4#3 true 0x42#8] := by
  decide +kernel

/-- R99 packs raw byte 0 lowest; R91 codes TIMEOUT as 4. -/
theorem test_event_port :
    eventPort (some (.err .timeout (some 5#6) [0x05#8, 0xAA#8])) =
      { evValid := true, evKind := 4#3, evN := 2#6, evRaw := 0xAA05#272, evAddrV := true, evAddr := 5#6, evFam := 0#3,
        evSchema := 0#5 } := by decide +kernel

/-! ## One step -/

/-- A state in RECV holding `body`, with the byte `b` presented next under family code `fam`. -/
def holding (cfg : Config) (fam : BitVec 3) (body : List Byte) (b : Byte) : State :=
  { State.resetWith cfg [byteInput fam false b] with regs := recvHolding cfg body }

/-- The fixture with the requests 1 and 3 of DIO moved to commands 5 and 6, so that each command has a schema. -/
def sevenCommands : Config := { Config.fixture with cmdTable := (fixtureCmds.set 1 5).set 3 6 }

/-- A state in TMO after one tick too many, holding `body`, with the input `i` next. -/
def timedOut (body : List Byte) (i : Input) : State :=
  { State.resetWith Config.fixture [i] with
    regs := { recvHolding Config.fixture body with st := .tmo, tmr := 4 } }

/-- The event of one step, none where the step stops. -/
def eventOf (s : State) : Option Event :=
  match step s with
  | .next t => t.event
  | _ => none

/-- The registers after one step, those before it where the step stops. -/
def regsAfter (s : State) : Regs :=
  match step s with
  | .next t => t.regs
  | _ => s.regs

/-- Whether one step answers a next state. -/
def stepsOn (s : State) : Bool :=
  match step s with
  | .next _ => true
  | _ => false

/-- 95 section 2.4, DATA: `05 02 00 01 06`. -/
theorem test_step_data :
    eventOf (holding Config.fixture 0#3 [0x05#8, 0x02#8, 0x00#8, 0x01#8] 0x06#8) =
      some (.okUnicast { addr := 5#6, r := 0#1, len := 2#5, cmd := 0#3 } .dio .dioReq [0x00#8, 0x01#8]
        [0x05#8, 0x02#8, 0x00#8, 0x01#8, 0x06#8]) := by decide +kernel

/-- 95 section 2.4, wrong family: SIZE_MISMATCH. -/
theorem test_step_data_wrong_family :
    eventOf (holding Config.fixture 4#3 [0x05#8, 0x02#8, 0x00#8, 0x01#8] 0x06#8) =
      some (.err .sizeMismatch (some 5#6) [0x05#8, 0x02#8, 0x00#8, 0x01#8, 0x06#8]) := by decide +kernel

/-- 95 section 2.4, CFG. -/
theorem test_step_cfg :
    eventOf (holding Config.fixture 0#3 [0x05#8, 0x28#8, 1#8, 2#8, 3#8, 4#8, 5#8, 6#8, 7#8, 8#8] 0x25#8) =
      some (.okUnicast { addr := 5#6, r := 0#1, len := 8#5, cmd := 1#3 } .dio .dioConfig
        [1#8, 2#8, 3#8, 4#8, 5#8, 6#8, 7#8, 8#8]
        [0x05#8, 0x28#8, 1#8, 2#8, 3#8, 4#8, 5#8, 6#8, 7#8, 8#8, 0x25#8]) := by decide +kernel

/-- 95 section 2.4, CFG response: UNKNOWN_COMMAND. -/
theorem test_step_cfg_response :
    eventOf (holding Config.fixture 0#3 [0x85#8, 0x20#8] 0xA5#8) =
      some (.err .unknownCommand (some 5#6) [0x85#8, 0x20#8, 0xA5#8]) := by decide +kernel

/-- 95 section 2.4, RO counters request, DATA2. -/
theorem test_step_data2 :
    eventOf (holding Config.fixture 4#3 [0x02#8, 0x40#8] 0x42#8) =
      some (.okUnicast { addr := 2#6, r := 0#1, len := 0#5, cmd := 2#3 } .ro .roCountersReq [] [0x02#8, 0x40#8, 0x42#8]) := by
  decide +kernel

/-- 95 section 2.4, DATA3. -/
theorem test_step_data3 :
    eventOf (holding Config.fixture 0#3 [0x05#8, 0x62#8, 0x03#8, 0x00#8] 0x64#8) =
      some (.okUnicast { addr := 5#6, r := 0#1, len := 2#5, cmd := 3#3 } .dio .dioCounterResetReq [0x03#8, 0x00#8]
        [0x05#8, 0x62#8, 0x03#8, 0x00#8, 0x64#8]) := by decide +kernel

/-- 95 section 2.4, DATA4. -/
theorem test_step_data4 :
    eventOf (holding Config.fixture 1#3 [0x09#8, 0x86#8, 1#8, 2#8, 3#8, 4#8, 5#8, 6#8] 0x88#8) =
      some (.okUnicast { addr := 9#6, r := 0#1, len := 6#5, cmd := 4#3 } .aio .aioRtdScaleReq
        [1#8, 2#8, 3#8, 4#8, 5#8, 6#8] [0x09#8, 0x86#8, 1#8, 2#8, 3#8, 4#8, 5#8, 6#8, 0x88#8]) := by decide +kernel

/-- 95 section 2.4, DATA5: nothing at 5 in the fixture. -/
theorem test_step_data5 :
    eventOf (holding Config.fixture 0#3 [0x05#8, 0xA0#8] 0xA5#8) =
      some (.err .unknownCommand (some 5#6) [0x05#8, 0xA0#8, 0xA5#8]) := by decide +kernel

/-- R217 with a schema of size 2 at command 6. -/
theorem test_step_data6 :
    eventOf (holding sevenCommands 0#3 [0x05#8, 0xC2#8, 0x03#8, 0x00#8] 0xC4#8) =
      some (.okUnicast { addr := 5#6, r := 0#1, len := 2#5, cmd := 6#3 } .dio .dioCounterResetReq [0x03#8, 0x00#8]
        [0x05#8, 0xC2#8, 0x03#8, 0x00#8, 0xC4#8]) := by decide +kernel

/-- 95 section 2.4, ERR response with payload; `exp_fam` 7 is ignored. -/
theorem test_step_err_response :
    eventOf (holding Config.fixture 7#3 [0x85#8, 0xE1#8, 0x42#8] 0x26#8) =
      some (.moduleError { addr := 5#6, r := 1#1, len := 1#5, cmd := 7#3 } [0x42#8] [0x85#8, 0xE1#8, 0x42#8, 0x26#8]) := by
  decide +kernel

/-- 95 section 2.4, ERR request. -/
theorem test_step_err_request :
    eventOf (holding Config.fixture 0#3 [0x05#8, 0xE0#8] 0xE5#8) =
      some (.err .unknownCommand (some 5#6) [0x05#8, 0xE0#8, 0xE5#8]) := by decide +kernel

/-- 95 section 2.4, UNDEF0. -/
theorem test_step_undef0 :
    eventOf (holding Config.fixture 0#3 [0x40#8, 0x00#8] 0x40#8) =
      some (.okBroadcast { cmd6 := 0#6, r := 0#1, len := 0#5, dp1 := 0#3 } [] [0x40#8, 0x00#8, 0x40#8]) := by
  decide +kernel

/-- 95 section 2.4, UNDEF1. -/
theorem test_step_undef1 :
    eventOf (holding Config.fixture 0#3 [0x41#8, 0xA3#8, 0x11#8, 0x22#8, 0x33#8] 0xE2#8) =
      some (.okBroadcast { cmd6 := 1#6, r := 0#1, len := 3#5, dp1 := 5#3 } [0x11#8, 0x22#8, 0x33#8]
        [0x41#8, 0xA3#8, 0x11#8, 0x22#8, 0x33#8, 0xE2#8]) := by decide +kernel

/-- 95 section 2.4, GOTO_GATE_PROTOCOL with R = 1 and `exp_fam` 5. -/
theorem test_step_goto_gate_protocol :
    eventOf (holding Config.fixture 5#3 [0xFF#8, 0x00#8] 0xFF#8) =
      some (.okBroadcast { cmd6 := 0x3F#6, r := 1#1, len := 0#5, dp1 := 0#3 } [] [0xFF#8, 0x00#8, 0xFF#8]) := by
  decide +kernel

/-- 95 section 2.4, reserved broadcast 0x3E. -/
theorem test_step_broadcast_reserved :
    eventOf (holding Config.fixture 0#3 [0x7E#8, 0x00#8] 0x7E#8) =
      some (.err .unknownCommand none [0x7E#8, 0x00#8, 0x7E#8]) := by decide +kernel

/-- 95 section 2.4, reserved broadcast with a bad CRC: CRC first. -/
theorem test_step_crc_before_command :
    eventOf (holding Config.fixture 0#3 [0x42#8, 0x00#8] 0x00#8) =
      some (.err .crcMismatch none [0x42#8, 0x00#8, 0x00#8]) := by decide +kernel

/-- 95 section 1.7, step 8: TIMEOUT of `05 05 AA`. -/
theorem test_step_timeout :
    eventOf (timedOut [0x05#8, 0x05#8, 0xAA#8] (gapInput 0#3 false)) =
      some (.err .timeout (some 5#6) [0x05#8, 0x05#8, 0xAA#8]) := by decide +kernel

/-- 95 section 2.3, A5 step 3: a byte in TMO starts the next frame, its tick not counted. -/
theorem test_step_timeout_with_byte :
    regsAfter (timedOut [0x05#8] (byteInput 0#3 true 0x7F#8)) =
      { st := .recv, buf := [(0, 0x7F#8)], cnt := 1, crc := 0x7F#8, tmr := 0 } := by decide +kernel

/-- 95 section 1.2, step 2: the byte is appended and folded into `crc`. -/
theorem test_step_append :
    regsAfter (holding Config.fixture 0#3 [0x05#8] 0x02#8) =
      { st := .recv, buf := [(0, 0x05#8), (1, 0x02#8)], cnt := 2, crc := 0x07#8, tmr := 0 } := by decide +kernel

/-- 95 section 2.5: reset in TMO emits no event. -/
theorem test_step_reset_in_tmo :
    eventOf (timedOut [0x05#8] (rstInput 0#3)) = none ∧
    regsAfter (timedOut [0x05#8] (rstInput 0#3)) = idleRegs Config.fixture := by decide +kernel

/-- The word of DATA, address 5, length 2, placed by withFetchWord runs next: DIO_REQ with its zero payload. -/
theorem test_step_with_fetch_word :
    eventOf (State.reset.withFetchWord 16 0x0205) =
      some (.okUnicast { addr := 5#6, r := 0#1, len := 2#5, cmd := 0#3 } .dio .dioReq [0x00#8, 0x00#8]
        [0x05#8, 0x02#8, 0x00#8, 0x00#8, 0x07#8]) := by decide +kernel

/-! ## Witnesses: for each statement with hypotheses, a state and operands that meet them -/

/-- A completing state: `05 02 00 01` held and the byte `06` presented. -/
def completing : State := holding Config.fixture 0#3 [0x05#8, 0x02#8, 0x00#8, 0x01#8] 0x06#8

/-- The same with a wrong CRC byte. -/
def completingWrong : State := holding Config.fixture 0#3 [0x05#8, 0x02#8, 0x00#8, 0x01#8] 0x07#8

/-- A state in RECV after one byte, with the byte `02` presented. -/
def receiving : State := holding Config.fixture 0#3 [0x05#8] 0x02#8

/-- An IDLE state with the inputs `ins` to come. -/
def idleWith (ins : List Input) : State := State.resetWith Config.fixture ins

theorem witness_DecodeReadsBackEveryEncoding : (Instr.broadcastReserved 2#6 1#1 31#5 7#3).wf = true := by decide

theorem witness_HeaderEncodeThenDecode : encodeHeader (.t2 0x3F 1#1 31 7) = .ok (0xFF#8, 0xFF#8) := by decide

theorem witness_EncoderChecksTheLengthFirst :
    hePort 0#1 0#1 32#8 64#8 8#8 = { heOut := 0#16, heErr := 1#2 } ∧
    hePort 0#1 0#1 31#8 64#8 7#8 = { heOut := 0#16, heErr := 2#2 } ∧
    hePort 1#1 0#1 31#8 63#8 8#8 = { heOut := 0#16, heErr := 2#2 } ∧
    hePort 0#1 1#1 31#8 63#8 7#8 = { heOut := 0xFFBF#16, heErr := 0#2 } := by decide

theorem witness_DefaultCrcInvertsTheFlippedBit : 1 < [0x05#8, 0x02#8].length ∧ 7 < 8 := by decide

theorem witness_CrcCheckValidatesTheFrame : completing.inv = true ∧ completing.transition = .complete := by
  decide +kernel

/-- R146's example, and the boundary of each clause: 31 bytes with fields 63 and 7, one byte more, one field more. -/
theorem witness_BuiltFramesValidate :
    buildFrame Config.fixture (.t1 5 0#1 9 0) [0x00#8, 0x01#8] = .ok [0x05#8, 0x02#8, 0x00#8, 0x01#8, 0x06#8] ∧
    buildFrame Config.fixture (.t2 63 1#1 0 7) (List.replicate 31 0x00#8) =
      .ok (0xFF#8 :: 0xFF#8 :: List.replicate 31 0x00#8 ++ [0x00#8]) ∧
    buildFrame Config.fixture (.t1 64 0#1 0 8) (List.replicate 32 0x00#8) = .error .lengthOutOfRange ∧
    buildFrame Config.fixture (.t1 64 0#1 0 7) (List.replicate 31 0x00#8) = .error .fieldOutOfRange ∧
    buildFrame Config.fixture (.t2 63 0#1 0 8) [] = .error .fieldOutOfRange := by decide +kernel

theorem witness_LookupFindsTheSchemaAtTheKey :
    Config.fixture.wf = true ∧ Config.fixture.lookup .aio 4#3 1#1 = some (.aioRtdScaleResp, 6#5) := by decide +kernel

theorem witness_RomHoldsTwentySixSchemas : Config.fixture.wf = true := by decide +kernel

theorem witness_RomEntriesHoldTheRegistry :
    Config.fixture.registry 4#3 0#1 6#3 = none ∧ Config.fixture.registry 5#3 0#1 0#3 = none ∧
    Config.fixture.registry 0#3 0#1 7#3 = none ∧
    Config.fixture.registry 4#3 0#1 0#3 = some (.roTargetReq, 1#5) := by decide +kernel

theorem witness_ConfigCommandFindsTheConfigSchema : Config.fixture.wf = true := by decide +kernel

theorem witness_WrongCrcReportsMismatch :
    completingWrong.cfg.wf = true ∧ completingWrong.transition = .complete ∧
    completingWrong.cfg.crc.final completingWrong.regs.crc ≠ completingWrong.input.inByte := by decide +kernel

/-- A state whose CRC byte is right and whose family code is DIO, under the configuration with seven commands. -/
def sevenDio : State := holding sevenCommands 0#3 [0x05#8, 0x02#8, 0x00#8, 0x01#8] 0x06#8

/-- The same with the family code of AIO. -/
def sevenAio : State := holding sevenCommands 1#3 [0x05#8, 0x02#8, 0x00#8, 0x01#8] 0x06#8

/-- Every command has a schema: 0, 1, 5 and 6 in DIO, 2, 3 and 4 in AIO. -/
theorem witness_UnicastFramesAreDelivered :
    sevenDio.cfg.crc.final sevenDio.regs.crc = sevenDio.input.inByte ∧ famOf sevenDio.input.expFam = some .dio ∧
    sevenAio.cfg.crc.final sevenAio.regs.crc = sevenAio.input.inByte ∧ famOf sevenAio.input.expFam = some .aio ∧
    sevenCommands.lookup .dio 0#3 0#1 = some (.dioReq, 2#5) ∧
    sevenCommands.lookup .dio 1#3 0#1 = some (.dioConfig, 8#5) ∧
    sevenCommands.lookup .aio 2#3 0#1 = some (.aioRawReq, 0#5) ∧
    sevenCommands.lookup .aio 3#3 0#1 = some (.aioInHalfConfig, 20#5) ∧
    sevenCommands.lookup .aio 4#3 0#1 = some (.aioRtdScaleReq, 6#5) ∧
    sevenCommands.lookup .dio 5#3 0#1 = some (.dioReqPwm, 18#5) ∧
    sevenCommands.lookup .dio 6#3 0#1 = some (.dioCounterResetReq, 2#5) := by decide +kernel

/-- Both causes: a family code of 5, and a key with no schema. -/
theorem witness_UnicastWithoutSchemaIsUnknown :
    completing.cfg.crc.final completing.regs.crc = completing.input.inByte ∧
    (famOf completing.input.expFam = some .dio ∧ completing.cfg.lookup .dio 5#3 0#1 = none) ∧
    5 ≤ (holding Config.fixture 5#3 [0x05#8, 0x00#8] 0x05#8).input.expFam.toNat ∧
    (holding Config.fixture 5#3 [0x05#8, 0x00#8] 0x05#8).crcOk = true := by decide +kernel

theorem witness_UnicastOfWrongSizeIsMismatch :
    completing.cfg.crc.final completing.regs.crc = completing.input.inByte ∧
    famOf completing.input.expFam = some .dio ∧ (3#5 : BitVec 5) ≠ 2#5 ∧
    completing.cfg.lookup .dio 0#3 0#1 = some (.dioReq, 2#5) := by decide +kernel

theorem witness_ErrorResponseIsModuleError :
    let s := holding Config.fixture 7#3 [0x85#8, 0xE0#8] 0x65#8
    s.cfg.crc.final s.regs.crc = s.input.inByte := by decide +kernel

theorem witness_ErrorRequestIsUnknown :
    let s := holding Config.fixture 0#3 [0x05#8, 0xE0#8] 0xE5#8
    s.cfg.crc.final s.regs.crc = s.input.inByte := by decide +kernel

theorem witness_DefinedBroadcastsAreDelivered :
    let s := holding Config.fixture 0#3 [0x7F#8, 0x00#8] 0x7F#8
    s.cfg.crc.final s.regs.crc = s.input.inByte := by decide +kernel

theorem witness_ReservedBroadcastsAreUnknown :
    let s := holding Config.fixture 0#3 [0x42#8, 0x00#8] 0x42#8
    s.cfg.crc.final s.regs.crc = s.input.inByte := by decide +kernel

theorem witness_InstructionsRefineTheMultiplexer : 2 ≤ completing.regs.cnt := by decide +kernel

theorem witness_StepRunsTheDecodedInstruction :
    completing.cfg.wf = true ∧ completing.regs.st = .recv ∧ completing.input.rst = false ∧
    completing.input.inValid = true ∧ completes completing.regs completing.input.inByte = true ∧
    (Instr.data 5#6 0#1 2#5).wf = true ∧
    decode [completing.regs.buf.read 0, completing.regs.buf.read 1] = .ok (.data 5#6 0#1 2#5, []) := by decide +kernel

theorem witness_PlacedWordRunsNext :
    (Instr.errResponse 63#6 31#5).wf = true ∧ State.reset.cfg.wf = true := by decide +kernel

/-- Both ends of the range: L = 0 at index 2 and L = 31 at index 33; index 1 never completes. -/
theorem witness_FrameCompletesAtItsDeclaredLength :
    completes (recvHolding Config.fixture [0x05#8, 0x00#8]) 0x05#8 = true ∧
    completes (recvHolding Config.fixture (zeroPayloadBody 0x81#8 0x5F#8)) 0x00#8 = true ∧
    (recvHolding Config.fixture (zeroPayloadBody 0x81#8 0x5F#8)).cnt = 33 ∧
    completes (recvHolding Config.fixture [0x05#8]) 0x00#8 = false := by decide +kernel

theorem witness_ResetDominatesEveryInput :
    (timedOut [0x05#8] (rstInput 0#3)).cfg.wf = true ∧ (timedOut [0x05#8] (rstInput 0#3)).input.rst = true := by
  decide +kernel

theorem witness_IdleByteStartsAFrame :
    let s := idleWith [byteInput 0#3 true 0x7F#8]
    s.cfg.wf = true ∧ s.input.rst = false ∧ s.regs.st = .idle ∧ s.input.inValid = true := by decide +kernel

theorem witness_IdleWithoutByteWaits :
    let s := idleWith [gapInput 0#3 true]
    s.cfg.wf = true ∧ s.input.rst = false ∧ s.regs.st = .idle ∧ s.input.inValid = false := by decide +kernel

theorem witness_ByteIsAppended :
    receiving.cfg.wf = true ∧ receiving.regs.buf.wf = true ∧ receiving.input.rst = false ∧
    receiving.regs.st = .recv ∧ receiving.input.inValid = true ∧
    completes receiving.regs receiving.input.inByte = false ∧ receiving.regs.cnt ≤ 32 := by decide +kernel

theorem witness_RecvWithoutByteCountsTicks :
    let s := { receiving with inputs := [gapInput 0#3 true] }
    s.cfg.wf = true ∧ s.input.rst = false ∧ s.regs.st = .recv ∧ s.input.inValid = false := by decide +kernel

/-- At the buffer's end: the longest frame, 33 bytes held. -/
theorem witness_TimeoutWithByteStartsANewFrame :
    let s := timedOut (zeroPayloadBody 0x81#8 0x5F#8) (byteInput 0#3 false 0x07#8)
    s.cfg.wf = true ∧ s.input.rst = false ∧ s.regs.st = .tmo ∧ s.input.inValid = true ∧ s.regs.cnt ≤ 33 := by
  decide +kernel

theorem witness_TimeoutWithoutByteGoesIdle :
    let s := timedOut [0x05#8] (gapInput 0#3 false)
    s.cfg.wf = true ∧ s.input.rst = false ∧ s.regs.st = .tmo ∧ s.input.inValid = false ∧ s.regs.cnt ≤ 33 := by
  decide +kernel

theorem witness_TimeoutReportsAPartialFrame :
    let s := timedOut [0x05#8, 0x05#8, 0xAA#8] (gapInput 0#3 false)
    s.inv = true ∧ s.input.rst = false ∧ s.regs.st = .tmo ∧ stepsOn s = true := by decide +kernel

/-- Each side of StepStopsOnlyOnRefusedConfigOrBufferEnd: a refused configuration, and an append at index 33. -/
theorem witness_StepStopsOnlyOnRefusedConfigOrBufferEnd :
    let s := { receiving with regs := { receiving.regs with cnt := 33 } }
    ({ Config.fixture with nChannels := 0 } : Config).wf = false ∧
    s.cfg.wf = true ∧ s.transition = .append ∧ 33 ≤ s.regs.cnt := by decide +kernel

theorem witness_InvariantIsKept : completing.inv = true ∧ stepsOn completing = true := by decide +kernel

theorem witness_ResetStateIsGood : Config.fixture.wf = true := by decide +kernel

theorem witness_GoodStatesAlwaysStep : receiving.inv = true := by decide +kernel

theorem witness_ReachableStatesMeetTheirInvariant : Reachable (State.resetWith Config.fixture []) :=
  .afterReset Config.fixture [] (by decide +kernel)

theorem witness_StepIsTheAssembledStepFunction : stepsOn receiving = true := by decide +kernel

theorem witness_EventsBelongToTheirFrame : stepsOn completing = true ∧ (eventOf completing).isSome = true := by
  decide +kernel

/-- A run of two steps. -/
theorem witness_ConfigurationNeverChanges :
    (match runTrace 2 (idleWith [byteInput 0#3 false 0x05#8, gapInput 0#3 true]) with
      | .next _ => true
      | .fault _ => false
      | .refused _ => false) = true := by decide +kernel

/-- Two inputs that differ in what the completing step does not read. -/
theorem witness_UnreadInputsDoNotMatter :
    byteInput 0#3 false 0x06#8 ≠ byteInput 0#3 true 0x06#8 ∧ completing.regs.st = .recv ∧
    completes completing.regs 0x06#8 = true ∧ (byteInput 0#3 false 0x06#8).expFam = (byteInput 0#3 true 0x06#8).expFam := by
  decide +kernel

/-- 95 A2: `02 40 42`, a tick with each of the last two bytes, under a threshold of 3; from IDLE, and from TMO. -/
theorem witness_FrameCompletesBeforeTheDeadline :
    let ins := [byteInput 4#3 false 0x02#8, byteInput 4#3 true 0x40#8, byteInput 4#3 true 0x42#8]
    let late := { timedOut [0x05#8] (gapInput 0#3 false) with inputs := ins }
    (idleWith ins).inv = true ∧ (idleWith ins).regs.st = .idle ∧ noReset ins = true ∧ isFrame (presented ins) = true ∧
    tickCount [byteInput 4#3 true 0x40#8] ≤ (idleWith ins).cfg.timeoutTicks ∧
    late.inv = true ∧ late.regs.st = .tmo ∧ pendingTimeout late ≠ [] := by decide +kernel

/-- 95 section 1.7: `05 05 AA`, then ticks; from IDLE, and from TMO. -/
theorem witness_FrameTimesOutAfterTheDeadline :
    let first := byteInput 0#3 false 0x05#8
    let mid := [byteInput 0#3 false 0x05#8, byteInput 0#3 false 0xAA#8, gapInput 0#3 true, gapInput 0#3 true,
      gapInput 0#3 true]
    let s := idleWith (first :: mid ++ [gapInput 0#3 true, gapInput 0#3 false])
    let late := { timedOut [0x05#8] (gapInput 0#3 false) with inputs := s.inputs }
    s.inv = true ∧ s.regs.st = .idle ∧ noReset (first :: mid ++ [gapInput 0#3 true]) = true ∧
    first.inValid = true ∧ (gapInput 0#3 true).tick = true ∧ tickCount mid = s.cfg.timeoutTicks ∧
    partialFrame (presented (first :: mid ++ [gapInput 0#3 true])) = true ∧ (gapInput 0#3 false).rst = false ∧
    late.inv = true ∧ late.regs.st = .tmo ∧ late.cfg = s.cfg := by
  decide +kernel

theorem witness_TicksEndEveryFrame :
    let ins := List.replicate 4 (gapInput 0#3 true)
    let s := { receiving with inputs := ins ++ [gapInput 0#3 false] }
    s.inv = true ∧ s.regs.st = .recv ∧ noReset (ins ++ [gapInput 0#3 false]) = true ∧
    tickCount ins = s.cfg.timeoutTicks + 1 := by decide +kernel

theorem witness_BuiltFrameCompletesWithValidCrc :
    let fr := [0x7F#8, 0x00#8, 0x7F#8]
    let ins := fr.map (byteInput 0#3 false)
    (idleWith ins).inv = true ∧ (idleWith ins).regs.st = .idle ∧
    buildFrame (idleWith ins).cfg (.t2 0x3F 0#1 0 0) [] = .ok fr ∧ (idleWith ins).inputs = ins ++ [] ∧
    ins.map (fun i => i.inByte) = fr ∧ (∀ i ∈ ins, i.rst = false ∧ i.inValid = true) ∧
    tickCount ins.tail.dropLast ≤ (idleWith ins).cfg.timeoutTicks := by decide +kernel

theorem witness_FrameRoundTrip :
    encodeFrame Config.fixture (.t1 5 0#1 0 0) .dio [0x00#8, 0x01#8] =
      .ok [0x05#8, 0x02#8, 0x00#8, 0x01#8, 0x06#8] := by decide +kernel

/-- One value for each clause: 95 section 2.4, encodeFrame, and command 7 on both sides of its boundary. -/
theorem witness_EncodeFrameChecksInOrder :
    Config.fixture.lookup .dio (BitVec.ofNat 3 5) 0#1 = none ∧
    Config.fixture.lookup .dio (BitVec.ofNat 3 0) 0#1 = some (.dioReq, 2#5) ∧
    encodeFrame Config.fixture (.t1 5 0#1 0 0) .dio [0x00#8, 0x01#8] =
      .ok [0x05#8, 0x02#8, 0x00#8, 0x01#8, 0x06#8] ∧
    encodeFrame Config.fixture (.t1 64 0#1 0 0) .dio [0x00#8, 0x01#8] = .error (.enc .fieldOutOfRange) ∧
    encodeFrame Config.fixture (.t1 5 1#1 0 7) .dio [0x42#8] = .ok [0x85#8, 0xE1#8, 0x42#8, 0x26#8] ∧
    encodeFrame Config.fixture (.t1 5 0#1 0 8) .dio [] = .error (.enc .fieldOutOfRange) ∧
    encodeFrame Config.fixture (.t2 0x3F 0#1 0 0) .ro [] = .ok [0x7F#8, 0x00#8, 0x7F#8] ∧
    encodeFrame Config.fixture (.t2 1 0#1 0 5) .ro (List.replicate 32 0#8) = .error (.enc .lengthOutOfRange) := by
  decide +kernel

theorem witness_ErrorsRecordTheUnicastAddress :
    0xBF#8 &&& 0x40#8 = 0#8 ∧ addrOf [0xBF#8] = some 63#6 ∧ 0x7F#8 &&& 0x40#8 ≠ 0#8 ∧ addrOf [0x7F#8] = none := by
  decide

theorem witness_EventPortPacksTheRawBytes :
    (List.replicate 34 0xA5#8).length ≤ 34 ∧ (packRaw [0x05#8, 0xAA#8]).extractLsb' 8 8 = 0xAA#8 := by decide +kernel

theorem witness_StatusPortShowsTheRegisters :
    completing.inv = true ∧ (idleWith []).inv = true ∧
    statusPort completing.regs = { stO := 1#2, cntO := 4#6, busy := true, hdrValid := true, hdrO := 0x0205#16 } := by
  decide +kernel

theorem witness_ChannelsAreIndependent :
    ((Platform.reset { Config.fixture with nChannels := 2 }).step
      [byteInput 0#3 false 0x05#8, gapInput 0#3 true]).isSome = true := by decide +kernel

theorem witness_PseudoInstructionsExpand :
    buildFrame Config.fixture (.t1 5 1#1 1 7) [0x42#8] = .ok [0x85#8, 0xE1#8, 0x42#8, 0x26#8] ∧
    buildFrame Config.fixture (.t2 0x3F 0#1 0 0) [] = .ok [0x7F#8, 0x00#8, 0x7F#8] := by decide +kernel

end Sys2Proof.Tests
end

/-! # The register states of the core (10_state.md): the invariant of R27, reset, and the configuration -/

namespace Sys2Proof.Machine

/-! ## The end of a frame: what every instruction does to the state -/

/-- R167: `t` is `s` at the end of its frame: the step is finished in idleState, with one event that reports the raw bytes. -/
def EndsFrame (s t : State) : Prop :=
  ∃ ev : Event, ev.raw = s.raw ∧ t = s.finish (idleRegs s.cfg) (some ev)

theorem deliver_endsFrame {ev : Event} {s : State} (h : ev.raw = s.raw) : EndsFrame s (deliver ev s) :=
  ⟨ev, h, deliver_eq ev s⟩

theorem unknownCommand_endsFrame (addr : Option (BitVec 6)) (s : State) : EndsFrame s (unknownCommand addr s) :=
  ⟨_, rfl, unknownCommand_eq addr s⟩

theorem dispatchBroadcast_endsFrame (h : Hdr2) (s : State) : EndsFrame s (dispatchBroadcast h s) :=
  ⟨_, rfl, dispatchBroadcast_eq h s⟩

theorem dispatchUnicast_endsFrame (h : Hdr1) (s : State) : EndsFrame s (dispatchUnicast h s) := by
  obtain ⟨-, heq⟩ | ⟨_, -, -, heq⟩ | ⟨_, _, _, -, -, -, heq⟩ | ⟨_, _, -, -, heq⟩ := dispatchUnicast_cases h s
  · exact heq ▸ unknownCommand_endsFrame _ s
  · exact heq ▸ unknownCommand_endsFrame _ s
  · exact ⟨_, rfl, heq⟩
  · exact ⟨_, rfl, heq⟩

theorem ifCrcOk_endsFrame {s valid : State} (h : EndsFrame s valid) : EndsFrame s (ifCrcOk s valid) := by
  obtain ⟨-, heq⟩ | ⟨-, heq⟩ := ifCrcOk_cases s valid
  · rw [heq]
    exact h
  · exact ⟨_, rfl, heq⟩

/-- R167: every instruction, in every state, answers a next state at the end of its frame. -/
theorem exec_endsFrame (i : Instr) (s : State) : ∃ t, exec i s = .next t ∧ EndsFrame s t := by
  cases i with
  | data _ _ _ => exact ⟨_, rfl, ifCrcOk_endsFrame (dispatchUnicast_endsFrame _ s)⟩
  | cfg _ _ _ => exact ⟨_, rfl, ifCrcOk_endsFrame (dispatchUnicast_endsFrame _ s)⟩
  | data2 _ _ _ => exact ⟨_, rfl, ifCrcOk_endsFrame (dispatchUnicast_endsFrame _ s)⟩
  | data3 _ _ _ => exact ⟨_, rfl, ifCrcOk_endsFrame (dispatchUnicast_endsFrame _ s)⟩
  | data4 _ _ _ => exact ⟨_, rfl, ifCrcOk_endsFrame (dispatchUnicast_endsFrame _ s)⟩
  | data5 _ _ _ => exact ⟨_, rfl, ifCrcOk_endsFrame (dispatchUnicast_endsFrame _ s)⟩
  | data6 _ _ _ => exact ⟨_, rfl, ifCrcOk_endsFrame (dispatchUnicast_endsFrame _ s)⟩
  | errResponse _ _ => exact ⟨_, rfl, ifCrcOk_endsFrame (deliver_endsFrame rfl)⟩
  | errRequest _ _ => exact ⟨_, rfl, ifCrcOk_endsFrame (unknownCommand_endsFrame _ s)⟩
  | undef0 _ _ _ => exact ⟨_, rfl, ifCrcOk_endsFrame (dispatchBroadcast_endsFrame _ s)⟩
  | undef1 _ _ _ => exact ⟨_, rfl, ifCrcOk_endsFrame (dispatchBroadcast_endsFrame _ s)⟩
  | gotoGateProtocol _ _ _ => exact ⟨_, rfl, ifCrcOk_endsFrame (dispatchBroadcast_endsFrame _ s)⟩
  | broadcastReserved _ _ _ _ => exact ⟨_, rfl, ifCrcOk_endsFrame (unknownCommand_endsFrame _ s)⟩

theorem endsFrame_of_exec {i : Instr} {s t : State} (h : exec i s = .next t) : EndsFrame s t := by
  obtain ⟨u, hu, hend⟩ := exec_endsFrame i s
  rw [hu] at h
  cases h
  exact hend

/-! ## What selects the transitions of RECV -/

/-- R165, R166: a byte is appended only in RECV, and only when it does not complete the frame. -/
theorem recv_of_transition_append {s : State} (h : s.transition = .append) :
    s.regs.st = .recv ∧ completes s.regs s.input.inByte = false := by
  have hcases := transition_cases s
  rw [h] at hcases
  obtain ⟨-, ht⟩ | ⟨-, ⟨-, ht⟩ | ⟨hst, ht⟩ | ⟨-, ht⟩⟩ := hcases
  · cases ht
  · split_ifs at ht
  · split_ifs at ht with _ hc
    exact ⟨hst, Bool.eq_false_iff.mpr hc⟩
  · split_ifs at ht

theorem recv_of_transition_recvWait {s : State} (h : s.transition = .recvWait) : s.regs.st = .recv := by
  have hcases := transition_cases s
  rw [h] at hcases
  obtain ⟨-, ht⟩ | ⟨-, ⟨-, ht⟩ | ⟨hst, -⟩ | ⟨-, ht⟩⟩ := hcases
  · cases ht
  · split_ifs at ht
  · exact hst
  · split_ifs at ht

/-! ## The invariant of R27, one column at a time -/

/-- R27: what the columns RECV and TMO share, with the canonical form of the buffer: between 1 and 33 bytes of a frame are
held, and no complete frame. -/
structure Regs.HoldsPartial (g : Regs) : Prop where
  bufWf : g.buf.wf = true
  bufBelow : g.buf.below g.cnt = true
  cntPos : 1 ≤ g.cnt
  cntLe : g.cnt ≤ bufBytes
  bound : 2 ≤ g.cnt → g.cnt ≤ lenOfByte1 (g.buf.read 1) + 2

theorem lenBound_iff (g : Regs) : lenBound g = true ↔ (2 ≤ g.cnt → g.cnt ≤ lenOfByte1 (g.buf.read 1) + 2) := by
  simp only [lenBound, Bool.or_eq_true, decide_eq_true_eq]
  omega

/-- R27, every column: the buffer reads 0x00 from `cnt` on. -/
theorem Regs.inv_buf {cfg : Config} {g : Regs} (h : g.inv cfg = true) :
    g.buf.wf = true ∧ g.buf.below g.cnt = true := by
  simp only [Regs.inv, Bool.and_eq_true] at h
  exact h.1

/-- R27, column IDLE. -/
theorem Regs.inv_idle_iff {cfg : Config} {g : Regs} (hst : g.st = .idle) :
    g.inv cfg = true ↔
      g.buf.wf = true ∧ g.buf.below g.cnt = true ∧ g.cnt = 0 ∧ g.crc = cfg.crc.init ∧ g.tmr = 0 := by
  simp [Regs.inv, hst, and_assoc]

/-- R27, column RECV. -/
theorem Regs.inv_recv_iff {cfg : Config} {g : Regs} (hst : g.st = .recv) :
    g.inv cfg = true ↔
      g.HoldsPartial ∧ g.crc = cfg.crc.fold cfg.crc.init (heldBytes g) ∧ g.tmr ≤ cfg.timeoutTicks := by
  simp only [Regs.inv, hst, Bool.and_eq_true, decide_eq_true_eq, beq_iff_eq, lenBound_iff]
  constructor
  · rintro ⟨⟨hwf, hbelow⟩, ⟨⟨⟨hpos, hle⟩, hbound⟩, hcrc⟩, htmr⟩
    exact ⟨⟨hwf, hbelow, hpos, hle, hbound⟩, hcrc, htmr⟩
  · rintro ⟨⟨hwf, hbelow, hpos, hle, hbound⟩, hcrc, htmr⟩
    exact ⟨⟨hwf, hbelow⟩, ⟨⟨⟨hpos, hle⟩, hbound⟩, hcrc⟩, htmr⟩

/-- R27, column TMO. -/
theorem Regs.inv_tmo_iff {cfg : Config} {g : Regs} (hst : g.st = .tmo) :
    g.inv cfg = true ↔ g.HoldsPartial ∧ g.tmr = cfg.timeoutTicks + 1 := by
  simp only [Regs.inv, hst, Bool.and_eq_true, decide_eq_true_eq, lenBound_iff]
  constructor
  · rintro ⟨⟨hwf, hbelow⟩, ⟨⟨hpos, hle⟩, hbound⟩, htmr⟩
    exact ⟨⟨hwf, hbelow, hpos, hle, hbound⟩, htmr⟩
  · rintro ⟨⟨hwf, hbelow, hpos, hle, hbound⟩, htmr⟩
    exact ⟨⟨hwf, hbelow⟩, ⟨⟨hpos, hle⟩, hbound⟩, htmr⟩

theorem Regs.holdsPartial_of_inv {cfg : Config} {g : Regs} (h : g.inv cfg = true) (hst : g.st ≠ .idle) :
    g.HoldsPartial := by
  cases hg : g.st with
  | idle => exact absurd hg hst
  | recv => exact ((Regs.inv_recv_iff hg).mp h).1
  | tmo => exact ((Regs.inv_tmo_iff hg).mp h).1

/-- R168: registers holding a partial frame are good in the state, RECV or TMO, that the timer selects. -/
theorem Regs.inv_of_expiry {cfg : Config} {g : Regs} (hp : g.HoldsPartial)
    (hcrc : g.crc = cfg.crc.fold cfg.crc.init (heldBytes g)) (htmr : g.tmr ≤ cfg.timeoutTicks + 1)
    (hst : g.st = expiry cfg g.tmr) : g.inv cfg = true := by
  obtain ⟨hlt, hexp⟩ | ⟨hle, hexp⟩ := expiry_cases cfg g.tmr
  · exact (Regs.inv_tmo_iff (hst.trans hexp)).mpr ⟨hp, by omega⟩
  · exact (Regs.inv_recv_iff (hst.trans hexp)).mpr ⟨hp, hcrc, hle⟩

theorem State.inv_iff (s : State) : s.inv = true ↔ s.cfg.wf = true ∧ s.regs.inv s.cfg = true := by
  simp [State.inv]

/-! ## Each register update of the transitions is good -/

theorem crcFold_append_byte (crc : Crc) (c : Byte) (bs : List Byte) (b : Byte) :
    crc.fold c (bs ++ [b]) = crc.step (crc.fold c bs) b := by
  simp [Crc.fold]

/-- R34: idleState is good. -/
@[simp] theorem idleRegs_inv (cfg : Config) : (idleRegs cfg).inv cfg = true :=
  (Regs.inv_idle_iff rfl).mpr ⟨rfl, rfl, rfl, rfl, rfl⟩

/-- R161: registers holding the first byte of a frame are good. -/
@[simp] theorem firstByteRegs_inv (cfg : Config) (b : Byte) : (firstByteRegs cfg b).inv cfg = true := by
  have hheld : heldBytes (firstByteRegs cfg b) = [b] := Memory.bytes_write_end Memory.wf_clear 0 b
  refine (Regs.inv_recv_iff rfl).mpr ⟨⟨firstByteRegs_buf_wf cfg b, ?_, le_rfl, ?_, ?_⟩, ?_, ?_⟩
  · exact Memory.below_write Nat.one_pos (Memory.below_clear 1)
  · simp [bufBytes]
  · simp
  · rw [hheld]; rfl
  · simp

/-- R169: in RECV a step without a byte leaves good registers. -/
theorem recvWaitRegs_inv {cfg : Config} {g : Regs} (i : Input) (h : g.inv cfg = true) (hst : g.st = .recv) :
    (recvWaitRegs cfg g i).inv cfg = true := by
  obtain ⟨⟨hwf, hbelow, hpos, hle, hbound⟩, hcrc, htmr⟩ := (Regs.inv_recv_iff hst).mp h
  exact Regs.inv_of_expiry ⟨hwf, hbelow, hpos, hle, hbound⟩ hcrc (timerNext_le cfg i.tick htmr) rfl

theorem lenOfByte1_le (b : Byte) : lenOfByte1 b ≤ maxPayload :=
  Nat.le_of_lt_succ (b.extractLsb' 0 5).isLt

/-- R165: a byte that does not complete the frame held leaves room for one more before the declared length. -/
theorem Regs.HoldsPartial.cnt_lt_of_not_completes {g : Regs} {b : Byte} (hp : g.HoldsPartial)
    (hc : completes g b = false) (h2 : 2 ≤ g.cnt) : g.cnt < lenOfByte1 (g.buf.read 1) + 2 := by
  have hne : g.cnt ≠ lenOfByte1 (g.buf.read 1) + 2 := by
    simpa [completes, declaredLen, h2, show g.cnt ≠ 1 by omega] using hc
  exact lt_of_le_of_ne (hp.bound h2) hne

/-- R50, R165: a byte that does not complete the frame held has its index in the buffer. -/
theorem Regs.HoldsPartial.cnt_lt_bufBytes {g : Regs} {b : Byte} (hp : g.HoldsPartial)
    (hc : completes g b = false) : g.cnt < bufBytes := by
  by_cases h2 : 2 ≤ g.cnt
  · have hlt := hp.cnt_lt_of_not_completes hc h2
    have hlen := lenOfByte1_le (g.buf.read 1)
    simp only [bufBytes, maxPayload] at *
    omega
  · simp only [bufBytes]
    omega

/-- R166: the registers after an append hold a partial frame. Its declared length is in the byte appended when that is
byte1, and in the buffer, where it stays, otherwise. -/
theorem appendRegs_holdsPartial {cfg : Config} {g : Regs} {i : Input} (hp : g.HoldsPartial)
    (hc : completes g i.inByte = false) : (appendRegs cfg g i).HoldsPartial where
  bufWf := Memory.wf_write g.cnt i.inByte hp.bufWf
  bufBelow := Memory.below_write (Nat.lt_succ_self g.cnt) (Memory.below_mono (Nat.le_succ g.cnt) hp.bufBelow)
  cntPos := Nat.succ_pos g.cnt
  cntLe := hp.cnt_lt_bufBytes hc
  bound _ := by
    have hpos := hp.cntPos
    rw [appendRegs_cnt, appendRegs_buf]
    by_cases h1 : g.cnt = 1
    · omega
    · have hlt := hp.cnt_lt_of_not_completes hc (by omega)
      rw [Memory.read_write_other hp.bufWf i.inByte (Ne.symm h1)]
      omega

/-- R166, R168: in RECV an append of a byte that does not complete the frame leaves good registers. -/
theorem appendRegs_inv {cfg : Config} {g : Regs} {i : Input} (h : g.inv cfg = true) (hst : g.st = .recv)
    (hc : completes g i.inByte = false) : (appendRegs cfg g i).inv cfg = true := by
  obtain ⟨hp, hcrc, htmr⟩ := (Regs.inv_recv_iff hst).mp h
  have hheld : heldBytes (appendRegs cfg g i) = heldBytes g ++ [i.inByte] :=
    Memory.bytes_write_end hp.bufWf g.cnt i.inByte
  refine Regs.inv_of_expiry (appendRegs_holdsPartial hp hc) ?_ (timerNext_le cfg i.tick htmr) rfl
  rw [hheld, crcFold_append_byte, ← hcrc, appendRegs_crc]

/-! ## What every step keeps -/

/-- R11: a step that answers a next state finishes with some registers and some event: it consumes one input, counts one
step, and the configuration stays. -/
theorem step_eq_finish {s t : State} (h : step s = .next t) : ∃ next ev, t = s.finish next ev := by
  obtain ⟨-, ⟨-, ht⟩ | ⟨-, ht⟩ | ⟨-, ht⟩ | ⟨-, -, ht⟩ | ⟨-, hexec⟩ | ⟨-, ht⟩ | ⟨-, -, ht⟩ | ⟨-, -, ht⟩⟩ := step_cases h
  case inr.inr.inr.inr.inl =>
    obtain ⟨ev, -, ht⟩ := endsFrame_of_exec hexec
    exact ⟨_, _, ht⟩
  all_goals exact ⟨_, _, ht⟩

theorem step_cfg {s t : State} (h : step s = .next t) : t.cfg = s.cfg := by
  obtain ⟨next, ev, rfl⟩ := step_eq_finish h
  exact finish_cfg s next ev

/-- R27, R160: the registers after a step from good registers are good, one transition at a time. -/
theorem step_regs_inv {s t : State} (hinv : s.regs.inv s.cfg = true) (h : step s = .next t) :
    t.regs.inv s.cfg = true := by
  obtain ⟨-, ⟨-, rfl⟩ | ⟨-, rfl⟩ | ⟨-, rfl⟩ | ⟨htr, -, rfl⟩ | ⟨-, hexec⟩ | ⟨htr, rfl⟩ | ⟨-, -, rfl⟩ | ⟨-, -, rfl⟩⟩ :=
    step_cases h
  · exact idleRegs_inv s.cfg
  · exact firstByteRegs_inv s.cfg s.input.inByte
  · exact hinv
  · obtain ⟨hst, hc⟩ := recv_of_transition_append htr
    exact appendRegs_inv hinv hst hc
  · obtain ⟨ev, -, rfl⟩ := endsFrame_of_exec hexec
    exact idleRegs_inv s.cfg
  · exact recvWaitRegs_inv s.input hinv (recv_of_transition_recvWait htr)
  · exact firstByteRegs_inv s.cfg s.input.inByte
  · exact idleRegs_inv s.cfg

theorem step_inv {s t : State} (hinv : s.inv = true) (h : step s = .next t) : t.inv = true := by
  rw [State.inv_iff] at hinv ⊢
  obtain ⟨hwf, hregs⟩ := hinv
  rw [step_cfg h]
  exact ⟨hwf, step_regs_inv hregs h⟩

theorem resetWith_inv {cfg : Config} (inputs : List Input) (hwf : cfg.wf = true) :
    (State.resetWith cfg inputs).inv = true :=
  (State.inv_iff _).mpr ⟨hwf, idleRegs_inv cfg⟩

/-- R273: the configuration of State.reset is not refused. -/
theorem fixture_wf : Config.fixture.wf = true := by decide +kernel

/-- R27, R35: reset establishes the invariant and every step keeps it. -/
theorem Reachable.inv {s : State} (h : Reachable s) : s.inv = true := by
  induction h with
  | afterReset cfg inputs hwf => exact resetWith_inv inputs hwf
  | afterStep s t _ hstep ih => exact step_inv ih hstep

/-- R286: a run of `k + 1` steps is a step and a run of `k` steps. -/
theorem runTrace_succ_next {k : Nat} {s u : State} {evs : List (Nat × Event)}
    (h : runTrace (k + 1) s = .next (u, evs)) :
    ∃ t evs', step s = .next t ∧ runTrace k t = .next (u, evs') ∧ evs = withEvent s.stepNo t.event evs' := by
  rw [runTrace] at h
  split at h
  · next t hstep =>
    split at h
    · next u' evs' hrun => cases h; exact ⟨t, evs', hstep, hrun, rfl⟩
    · cases h
    · cases h
  · cases h
  · cases h

theorem runTrace_cfg {k : Nat} {s t : State} {evs : List (Nat × Event)} (h : runTrace k s = .next (t, evs)) :
    t.cfg = s.cfg := by
  induction k generalizing s evs with
  | zero => cases h; rfl
  | succ k ih =>
    obtain ⟨u, evs', hstep, hrun, -⟩ := runTrace_succ_next h
    rw [ih hrun, step_cfg hstep]

/-- R73: the declared length is byte1 under the mask 0x1F. -/
theorem lenOfByte1_eq_and (b : Byte) : lenOfByte1 b = (b &&& 0x1F#8).toNat := by
  simp [lenOfByte1, Nat.and_two_pow_sub_one_eq_mod b.toNat 5]

/-! ## The obligations -/

/-- Settles O41: `step_inv`, by the transition the step takes. -/
theorem invariantIsKept : Obligations.InvariantIsKept := fun _ _ => step_inv

/-- Settles O44: the invariant of a reachable state, read one column of R27 at a time. -/
theorem reachableStatesMeetTheirInvariant : Obligations.ReachableStatesMeetTheirInvariant := by
  intro s hs
  obtain ⟨-, hinv⟩ := (State.inv_iff s).mp hs.inv
  refine ⟨fun a ha => ?_, fun hst => ?_, fun hst => ?_, fun hst => ?_, fun hst => ?_⟩
  · exact Memory.read_of_below ha (Regs.inv_buf hinv).2
  · obtain ⟨-, -, hidle⟩ := (Regs.inv_idle_iff hst).mp hinv
    exact hidle
  · have hp := Regs.holdsPartial_of_inv hinv hst
    exact ⟨hp.cntPos, hp.cntLe, lenOfByte1_eq_and (s.regs.buf.read 1) ▸ hp.bound⟩
  · obtain ⟨-, hcrc, htmr⟩ := (Regs.inv_recv_iff hst).mp hinv
    exact ⟨htmr, hcrc⟩
  · exact ((Regs.inv_tmo_iff hst).mp hinv).2

/-- Settles O47, by induction on the number of steps. -/
theorem configurationNeverChanges : Obligations.ConfigurationNeverChanges := fun _ _ _ _ => runTrace_cfg

/-- Settles O42: reset leaves idleState, which is good, and the fixture is not refused. -/
theorem resetStateIsGood : Obligations.ResetStateIsGood :=
  ⟨fun _ inputs => resetWith_inv inputs, resetWith_inv [] fixture_wf⟩

end Sys2Proof.Machine

/-! # The payload schema registry and its ROM (20_memory.md R53 to R56) -/

namespace Sys2Proof

/-! ## Three fields in one word: R53's address and R54's entry are both laid out this way -/

section fields

variable {u v w : Nat} (a : BitVec u) (b : BitVec v) (c : BitVec w)

theorem extractLsb'_high_append_append : (a ++ b ++ c).extractLsb' (w + v) u = a := by
  rw [BitVec.extractLsb'_append_eq_of_le (Nat.le_add_right w v), Nat.add_sub_cancel_left,
    BitVec.extractLsb'_append_eq_left]

theorem extractLsb'_middle_append_append : (a ++ b ++ c).extractLsb' w v = b := by
  rw [BitVec.extractLsb'_append_eq_of_le le_rfl, Nat.sub_self, BitVec.extractLsb'_append_eq_right]

end fields

/-! ## The ROM address -/

/-- R53, R55: reading at the address of a key undoes the packing of the key, so it answers the registry's entry. -/
@[simp] theorem Config.romRead_romAddress (cfg : Config) (fam : BitVec 3) (dir : BitVec 1) (cmd : BitVec 3) :
    cfg.romRead (romAddress fam dir cmd) = romWord (cfg.registry fam dir cmd) := by
  have hfam : (romAddress fam dir cmd).extractLsb' 4 3 = fam := extractLsb'_high_append_append fam dir cmd
  have hdir : (romAddress fam dir cmd).extractLsb' 3 1 = dir := extractLsb'_middle_append_append fam dir cmd
  have hcmd : (romAddress fam dir cmd).extractLsb' 0 3 = cmd := BitVec.extractLsb'_append_eq_right
  rw [Config.romRead, hfam, hdir, hcmd]

/-! ## The ROM entry -/

theorem romWord_none : romWord none = 0#11 := rfl

theorem romWord_some_valid (s : SchemaId) (size : BitVec 5) : (romWord (some (s, size))).extractLsb' 10 1 = 1#1 :=
  extractLsb'_high_append_append 1#1 (BitVec.ofNat 5 s.id.val) size

/-- R54: the 26 schema ids fit in the five bits 9:5. -/
theorem romWord_some_id (s : SchemaId) (size : BitVec 5) :
    ((romWord (some (s, size))).extractLsb' 5 5).toNat = s.id.val := by
  have hfield : (romWord (some (s, size))).extractLsb' 5 5 = BitVec.ofNat 5 s.id.val :=
    extractLsb'_middle_append_append 1#1 (BitVec.ofNat 5 s.id.val) size
  have hid : s.id.val < 2 ^ 5 := s.id.isLt.trans (by decide)
  rw [hfield, BitVec.toNat_ofNat, Nat.mod_eq_of_lt hid]

theorem romWord_some_size (s : SchemaId) (size : BitVec 5) : (romWord (some (s, size))).extractLsb' 0 5 = size :=
  BitVec.extractLsb'_append_eq_right

/-- R56, R206: no schema sits at a code that is no family, nor at command 7. -/
theorem Config.registry_eq_none_of_no_key (cfg : Config) {fam : BitVec 3} (dir : BitVec 1) {cmd : BitVec 3}
    (h : 5 ≤ fam.toNat ∨ cmd = 7#3) : cfg.registry fam dir cmd = none :=
  if_pos h

/-! ## The obligation -/

/-- Settles O17: a read at a key's address is the word of the registry's answer, with the fields of `romWord`. -/
theorem romEntriesHoldTheRegistry : Obligations.RomEntriesHoldTheRegistry := by
  intro cfg fam dir cmd
  rw [Config.romRead_romAddress]
  refine ⟨fun s size hsome => ?_, fun hnone => ?_, fun hkey => ?_⟩
  · rw [hsome]
    exact ⟨romWord_some_valid s size, romWord_some_id s size, romWord_some_size s size⟩
  · rw [hnone, romWord_none]
  · rw [cfg.registry_eq_none_of_no_key dir hkey, romWord_none]

end Sys2Proof

/-! # Header words and their instructions (30_encoding.md R57 to R81) -/

namespace Sys2Proof

/-! ## The five fields of a header word (R73 to R75) -/

/-- R73 to R75: a header word from its fields, T included. -/
def packWord (high : BitVec 3) (len : BitVec 5) (r t : BitVec 1) (low : BitVec 6) : HeaderWord :=
  high ++ len ++ r ++ t ++ low

theorem packType1_eq_packWord (cmd : BitVec 3) (len : BitVec 5) (r : BitVec 1) (addr : BitVec 6) :
    packType1 cmd len r addr = packWord cmd len r 0#1 addr := rfl

theorem packType2_eq_packWord (dp1 : BitVec 3) (len : BitVec 5) (r : BitVec 1) (cmd6 : BitVec 6) :
    packType2 dp1 len r cmd6 = packWord dp1 len r 1#1 cmd6 := rfl

section fields

variable (high : BitVec 3) (len : BitVec 5) (r t : BitVec 1) (low : BitVec 6)

@[simp] theorem fieldLow_packWord : fieldLow (packWord high len r t low) = low :=
  BitVec.extractLsb'_append_eq_right

@[simp] theorem fieldT_packWord : fieldT (packWord high len r t low) = t :=
  extractLsb'_middle_append_append _ t low

@[simp] theorem fieldR_packWord : fieldR (packWord high len r t low) = r := by
  rw [fieldR, packWord, BitVec.extractLsb'_append_eq_of_le (by decide)]
  exact extractLsb'_middle_append_append _ r t

@[simp] theorem fieldLen_packWord : fieldLen (packWord high len r t low) = len := by
  rw [fieldLen, packWord, BitVec.extractLsb'_append_eq_of_le (by decide),
    BitVec.extractLsb'_append_eq_of_le (by decide)]
  exact extractLsb'_middle_append_append high len r

@[simp] theorem fieldHigh_packWord : fieldHigh (packWord high len r t low) = high := by
  rw [fieldHigh, packWord, BitVec.extractLsb'_append_eq_of_le (by decide),
    BitVec.extractLsb'_append_eq_of_le (by decide)]
  exact extractLsb'_high_append_append high len r

end fields

/-- R73 to R75: the fields of a word cover all of its bits. -/
@[simp] theorem packWord_fields (hw : HeaderWord) :
    packWord (fieldHigh hw) (fieldLen hw) (fieldR hw) (fieldT hw) (fieldLow hw) = hw := by
  have hbyte1 : fieldHigh hw ++ fieldLen hw = hw.extractLsb' 8 8 :=
    BitVec.extractLsb'_append_extractLsb'_eq_extractLsb' rfl
  have hr : hw.extractLsb' 8 8 ++ fieldR hw = hw.extractLsb' 7 9 :=
    BitVec.extractLsb'_append_extractLsb'_eq_extractLsb' rfl
  have ht : hw.extractLsb' 7 9 ++ fieldT hw = hw.extractLsb' 6 10 :=
    BitVec.extractLsb'_append_extractLsb'_eq_extractLsb' rfl
  have hlow : hw.extractLsb' 6 10 ++ fieldLow hw = hw.extractLsb' 0 16 :=
    BitVec.extractLsb'_append_extractLsb'_eq_extractLsb' rfl
  rw [packWord, hbyte1, hr, ht, hlow, BitVec.extractLsb'_eq_self]

theorem headerWord_ext_iff {v w : HeaderWord} :
    v = w ↔ fieldHigh v = fieldHigh w ∧ fieldLen v = fieldLen w ∧ fieldR v = fieldR w ∧ fieldT v = fieldT w ∧
      fieldLow v = fieldLow w := by
  constructor
  · rintro rfl
    exact ⟨rfl, rfl, rfl, rfl, rfl⟩
  · rintro ⟨hhigh, hlen, hr, ht, hlow⟩
    rw [← packWord_fields v, hhigh, hlen, hr, ht, hlow, packWord_fields]

/-! ## The masks of the opcode map as tests of whole fields (R80) -/

theorem packWord_and_packWord (high high' : BitVec 3) (len len' : BitVec 5) (r r' t t' : BitVec 1)
    (low low' : BitVec 6) :
    packWord high len r t low &&& packWord high' len' r' t' low' =
      packWord (high &&& high') (len &&& len') (r &&& r') (t &&& t') (low &&& low') := by
  rw [packWord, packWord, packWord, ← BitVec.and_append, ← BitVec.and_append, ← BitVec.and_append, ← BitVec.and_append]

/-- R80: `(hw & mask) == match`, one field at a time. -/
theorem and_packWord_eq_iff {hw : HeaderWord} {mhigh high : BitVec 3} {mlen len : BitVec 5} {mr r mt t : BitVec 1}
    {mlow low : BitVec 6} :
    hw &&& packWord mhigh mlen mr mt mlow = packWord high len r t low ↔
      fieldHigh hw &&& mhigh = high ∧ fieldLen hw &&& mlen = len ∧ fieldR hw &&& mr = r ∧ fieldT hw &&& mt = t ∧
        fieldLow hw &&& mlow = low := by
  conv_lhs => rw [← packWord_fields hw, packWord_and_packWord, headerWord_ext_iff]
  simp only [fieldHigh_packWord, fieldLen_packWord, fieldR_packWord, fieldT_packWord, fieldLow_packWord]

/-- R80, rows with mask 0xE040: T and the high field are tested. -/
theorem unicastRow_iff {hw word : HeaderWord} (cmd : BitVec 3) (hword : packWord cmd 0#5 0#1 0#1 0#6 = word) :
    hw &&& 0xE040#16 = word ↔ fieldT hw = 0#1 ∧ fieldHigh hw = cmd := by
  have hmask : 0xE040#16 = packWord (BitVec.allOnes 3) 0#5 0#1 (BitVec.allOnes 1) 0#6 := by decide
  rw [← hword, hmask, and_packWord_eq_iff]
  simp only [BitVec.and_allOnes, BitVec.and_zero, true_and, and_true]
  exact and_comm

/-- R80, the two rows with mask 0xE0C0: T, R and the high field are tested. -/
theorem errRow_iff {hw word : HeaderWord} (r : BitVec 1) (hword : packWord 7#3 0#5 r 0#1 0#6 = word) :
    hw &&& 0xE0C0#16 = word ↔ fieldT hw = 0#1 ∧ fieldHigh hw = 7#3 ∧ fieldR hw = r := by
  have hmask : 0xE0C0#16 = packWord (BitVec.allOnes 3) 0#5 (BitVec.allOnes 1) (BitVec.allOnes 1) 0#6 := by decide
  rw [← hword, hmask, and_packWord_eq_iff]
  simp only [BitVec.and_allOnes, BitVec.and_zero, true_and, and_true]
  tauto

/-- R80, rows with mask 0x007F: T and the low field are tested. -/
theorem broadcastRow_iff {hw word : HeaderWord} (cmd6 : BitVec 6) (hword : packWord 0#3 0#5 0#1 1#1 cmd6 = word) :
    hw &&& 0x007F#16 = word ↔ fieldT hw = 1#1 ∧ fieldLow hw = cmd6 := by
  have hmask : 0x007F#16 = packWord 0#3 0#5 0#1 (BitVec.allOnes 1) (BitVec.allOnes 6) := by decide
  rw [← hword, hmask, and_packWord_eq_iff]
  simp only [BitVec.and_allOnes, BitVec.and_zero, true_and]

end Sys2Proof

namespace Sys2Proof.Machine

/-! ## Words, headers and instructions: three readings of one header -/

/-- R74, R75: the fields of a word as the header that its T selects. -/
def headerOfWord (hw : HeaderWord) : Header :=
  if fieldT hw = 0#1 then .t1 { addr := fieldLow hw, r := fieldR hw, len := fieldLen hw, cmd := fieldHigh hw }
  else .t2 { cmd6 := fieldLow hw, r := fieldR hw, len := fieldLen hw, dp1 := fieldHigh hw }

/-- R74, R75: the word of a header. -/
def Header.word : Header → HeaderWord
  | .t1 h => packType1 h.cmd h.len h.r h.addr
  | .t2 h => packType2 h.dp1 h.len h.r h.cmd6

/-- R80: the row of a header, selected by its command. -/
def Header.instr : Header → Instr
  | .t1 h =>
    if h.cmd = 0#3 then .data h.addr h.r h.len
    else if h.cmd = 1#3 then .cfg h.addr h.r h.len
    else if h.cmd = 2#3 then .data2 h.addr h.r h.len
    else if h.cmd = 3#3 then .data3 h.addr h.r h.len
    else if h.cmd = 4#3 then .data4 h.addr h.r h.len
    else if h.cmd = 5#3 then .data5 h.addr h.r h.len
    else if h.cmd = 6#3 then .data6 h.addr h.r h.len
    else if h.r = 1#1 then .errResponse h.addr h.len
    else .errRequest h.addr h.len
  | .t2 h =>
    if h.cmd6 = 0x00#6 then .undef0 h.r h.len h.dp1
    else if h.cmd6 = 0x01#6 then .undef1 h.r h.len h.dp1
    else if h.cmd6 = 0x3F#6 then .gotoGateProtocol h.r h.len h.dp1
    else .broadcastReserved h.cmd6 h.r h.len h.dp1

/-- R133: T is one bit, so every word is of type 1 or of type 2. -/
theorem headerOfWord_cases (hw : HeaderWord) :
    (fieldT hw = 0#1 ∧
      headerOfWord hw = .t1 { addr := fieldLow hw, r := fieldR hw, len := fieldLen hw, cmd := fieldHigh hw }) ∨
    (fieldT hw = 1#1 ∧
      headerOfWord hw = .t2 { cmd6 := fieldLow hw, r := fieldR hw, len := fieldLen hw, dp1 := fieldHigh hw }) := by
  obtain ht | ht := BitVec.eq_zero_or_eq_one (fieldT hw)
  · exact .inl ⟨ht, if_pos ht⟩
  · exact .inr ⟨ht, if_neg (by rw [ht]; decide)⟩

@[simp] theorem headerOfWord_word (h : Header) : headerOfWord h.word = h := by
  cases h with
  | t1 h => simp [headerOfWord, Header.word, packType1_eq_packWord]
  | t2 h => simp [headerOfWord, Header.word, packType2_eq_packWord]

@[simp] theorem word_headerOfWord (hw : HeaderWord) : (headerOfWord hw).word = hw := by
  obtain ⟨ht, h⟩ | ⟨ht, h⟩ := headerOfWord_cases hw
  · rw [h, Header.word, packType1_eq_packWord, ← ht, packWord_fields]
  · rw [h, Header.word, packType2_eq_packWord, ← ht, packWord_fields]

/-- R80: an instruction's encoding is the word of the header it stands for. -/
theorem encode_eq_word (i : Instr) : encode i = (headerOf i).word := by
  cases i <;> rfl

theorem reservedCmd6_iff (cmd6 : BitVec 6) :
    reservedCmd6 cmd6 = true ↔ cmd6 ≠ 0x00#6 ∧ cmd6 ≠ 0x01#6 ∧ cmd6 ≠ 0x3F#6 := by
  simp [reservedCmd6, and_assoc]

/-- R79, R80: the row of the header that a well-formed instruction stands for is the instruction's own row. -/
theorem instr_headerOf {i : Instr} (h : i.wf = true) : (headerOf i).instr = i := by
  cases i with
  | broadcastReserved cmd6 r len dp1 =>
    obtain ⟨h0, h1, h3F⟩ := (reservedCmd6_iff cmd6).mp h
    simp [headerOf, Header.instr, h0, h1, h3F]
  | _ => rfl

/-- R76: the eight commands of a type-1 header, the one of the ERR rows first. -/
theorem cmd_cases : ∀ cmd : BitVec 3, cmd = 7#3 ∨ cmd = 0#3 ∨ cmd = 1#3 ∨ cmd = 2#3 ∨ cmd = 3#3 ∨ cmd = 4#3 ∨
    cmd = 5#3 ∨ cmd = 6#3 := by
  decide

/-- R80, R81: every header has a row: the row is well formed and stands for that header. -/
theorem instr_wf_and_headerOf (h : Header) : h.instr.wf = true ∧ headerOf h.instr = h := by
  cases h with
  | t1 h =>
    obtain ⟨addr, r, len, cmd⟩ := h
    obtain rfl | rfl | rfl | rfl | rfl | rfl | rfl | rfl := cmd_cases cmd
    · obtain rfl | rfl := BitVec.eq_zero_or_eq_one r <;> exact ⟨rfl, rfl⟩
    all_goals exact ⟨rfl, rfl⟩
  | t2 h =>
    obtain ⟨cmd6, r, len, dp1⟩ := h
    simp only [Header.instr]
    split_ifs with h0 h1 h3F
    · subst h0; exact ⟨rfl, rfl⟩
    · subst h1; exact ⟨rfl, rfl⟩
    · subst h3F; exact ⟨rfl, rfl⟩
    · exact ⟨(reservedCmd6_iff cmd6).mpr ⟨h0, h1, h3F⟩, rfl⟩

/-- R80: the row whose mask and match fit a word is the row of the word's header. -/
theorem decodeWord_eq_instr (hw : HeaderWord) : decodeWord hw = (headerOfWord hw).instr := by
  simp only [decodeWord, unicastRow_iff (word := 0x0000#16) 0#3 rfl, unicastRow_iff (word := 0x2000#16) 1#3 rfl,
    unicastRow_iff (word := 0x4000#16) 2#3 rfl, unicastRow_iff (word := 0x6000#16) 3#3 rfl,
    unicastRow_iff (word := 0x8000#16) 4#3 rfl, unicastRow_iff (word := 0xA000#16) 5#3 rfl,
    unicastRow_iff (word := 0xC000#16) 6#3 rfl, errRow_iff (word := 0xE080#16) 1#1 rfl,
    errRow_iff (word := 0xE000#16) 0#1 rfl, broadcastRow_iff (word := 0x0040#16) 0x00#6 rfl,
    broadcastRow_iff (word := 0x0041#16) 0x01#6 rfl, broadcastRow_iff (word := 0x007F#16) 0x3F#6 rfl]
  obtain ⟨ht, h⟩ | ⟨ht, h⟩ := headerOfWord_cases hw
  · rw [h]
    simp only [ht, true_and, Header.instr]
    obtain hcmd | hcmd | hcmd | hcmd | hcmd | hcmd | hcmd | hcmd := cmd_cases (fieldHigh hw)
    · obtain hr | hr := BitVec.eq_zero_or_eq_one (fieldR hw) <;> simp [hcmd, hr]
    all_goals simp [hcmd]
  · simp [h, ht, Header.instr]

/-! ## Encoding and decoding undo each other -/

theorem decodeWord_encode {i : Instr} (h : i.wf = true) : decodeWord (encode i) = i := by
  rw [decodeWord_eq_instr, encode_eq_word, headerOfWord_word, instr_headerOf h]

theorem decodeWord_wf (hw : HeaderWord) : (decodeWord hw).wf = true := by
  rw [decodeWord_eq_instr]
  exact (instr_wf_and_headerOf _).1

theorem headerOf_decodeWord (hw : HeaderWord) : headerOf (decodeWord hw) = headerOfWord hw := by
  rw [decodeWord_eq_instr]
  exact (instr_wf_and_headerOf _).2

theorem encode_decodeWord (hw : HeaderWord) : encode (decodeWord hw) = hw := by
  rw [encode_eq_word, headerOf_decodeWord, word_headerOfWord]

/-! ## The two bytes of a header word (R57, R58) -/

@[simp] theorem headerWordOf_bytes (hw : HeaderWord) : headerWordOf (headerByte0 hw) (headerByte1 hw) = hw :=
  BitVec.extractLsb'_append_extractLsb'

theorem decode_encodeBytes_append {i : Instr} (h : i.wf = true) (rest : List Byte) :
    decode (encodeBytes i ++ rest) = .ok (i, rest) := by
  simp only [encodeBytes, List.cons_append, List.nil_append, decode, headerWordOf_bytes, decodeWord_encode h]

/-- R130: the header decoder reads from two bytes what the fields of their word are. -/
theorem headerOfWord_headerWordOf (b0 b1 : Byte) : headerOfWord (headerWordOf b0 b1) = decodeHeader b0 b1 := by
  have hlow : fieldLow (headerWordOf b0 b1) = b0.extractLsb' 0 6 :=
    BitVec.extractLsb'_append_eq_of_add_le (by decide)
  have ht : fieldT (headerWordOf b0 b1) = b0.extractLsb' 6 1 :=
    BitVec.extractLsb'_append_eq_of_add_le (by decide)
  have hr : fieldR (headerWordOf b0 b1) = b0.extractLsb' 7 1 :=
    BitVec.extractLsb'_append_eq_of_add_le (by decide)
  have hlen : fieldLen (headerWordOf b0 b1) = b1.extractLsb' 0 5 :=
    BitVec.extractLsb'_append_eq_of_le (by decide)
  have hhigh : fieldHigh (headerWordOf b0 b1) = b1.extractLsb' 5 3 :=
    BitVec.extractLsb'_append_eq_of_le (by decide)
  rw [headerOfWord, decodeHeader, hlow, ht, hr, hlen, hhigh]

/-! ## The obligations -/

/-- Settles O1: the two bytes make up the encoded word, and `decodeWord` undoes `encode` through the header. -/
theorem decodeReadsBackEveryEncoding : Obligations.DecodeReadsBackEveryEncoding := fun _ rest h =>
  decode_encodeBytes_append h rest

/-- Settles O2: a word, its header and the row of that header determine each other. -/
theorem everyWordIsTheEncodingOfItsDecoding : Obligations.EveryWordIsTheEncodingOfItsDecoding := fun hw =>
  ⟨decodeWord_wf hw, encode_decodeWord hw⟩

/-- Settles O3: both are the header of the word, by its fields. -/
theorem opcodeMapAgreesWithHeaderDecoder : Obligations.OpcodeMapAgreesWithHeaderDecoder := fun b0 b1 =>
  (headerOf_decodeWord _).trans (headerOfWord_headerWordOf b0 b1)

/-- Settles O4: each word is the encoding of the well-formed instruction named. -/
theorem sampleWordsDecode : Obligations.SampleWordsDecode :=
  ⟨decodeWord_encode (i := .data 5#6 0#1 2#5) rfl, decodeWord_encode (i := .cfg 63#6 0#1 0#5) rfl,
    decodeWord_encode (i := .errResponse 5#6 0#5) rfl, decodeWord_encode (i := .errRequest 5#6 0#5) rfl,
    decodeWord_encode (i := .undef1 0#1 3#5 5#3) rfl, decodeWord_encode (i := .gotoGateProtocol 0#1 0#5 0#3) rfl,
    decodeWord_encode (i := .broadcastReserved 2#6 1#1 31#5 0#3) rfl⟩

end Sys2Proof.Machine

/-! # The word placed by withFetchWord (30_encoding.md R80, 42_assembler.md R167) -/

namespace Sys2Proof.Machine

/-! ## A table word is laid out as the two header bytes -/

theorem ofNat_tableWord_low (hw : HeaderWord) : BitVec.ofNat 8 (hw.toNat % 2 ^ 16) = headerByte0 hw := by
  rw [Nat.mod_eq_of_lt hw.isLt]
  rfl

theorem ofNat_tableWord_high (hw : HeaderWord) : BitVec.ofNat 8 (hw.toNat % 2 ^ 16 / 256) = headerByte1 hw := by
  rw [Nat.mod_eq_of_lt hw.isLt, headerByte1, BitVec.extractLsb', Nat.shiftRight_eq_div_pow]

theorem decodeTableWord_encode {i : Instr} (h : i.wf = true) : decodeTableWord 16 (encode i).toNat = some i := by
  have hbytes : tableBytes (max 2 ((16 + 7) / 8)) ((encode i).toNat % 2 ^ 16) = encodeBytes i ++ [] := by
    simp only [encodeBytes, ← ofNat_tableWord_low, ← ofNat_tableWord_high]
    rfl
  rw [decodeTableWord, hbytes, decode_encodeBytes_append h]

theorem withFetchWord_eq_presenting (s : State) (hw : HeaderWord) :
    s.withFetchWord 16 hw.toNat = s.presenting (zeroPayloadBody (headerByte0 hw) (headerByte1 hw)) := by
  rw [State.withFetchWord, State.holdingWord, ofNat_tableWord_low, ofNat_tableWord_high]

/-! ## What the registers that hold a frame read as -/

theorem bytes_storeBytes (bs : List Byte) :
    ∀ {m : Memory} (i : Nat), m.wf = true → (storeBytes m i bs).bytes (i + bs.length) = m.bytes i ++ bs := by
  induction bs with
  | nil => intro m i _; simp [storeBytes]
  | cons b bs ih =>
    intro m i h
    have hlen : i + (b :: bs).length = i + 1 + bs.length := by simp; omega
    rw [storeBytes, hlen, ih (i + 1) (Memory.wf_write i b h), Memory.bytes_write_end h, List.append_assoc,
      List.singleton_append]

@[simp] theorem heldBytes_recvHolding (cfg : Config) (body : List Byte) : heldBytes (recvHolding cfg body) = body := by
  simpa [heldBytes, recvHolding] using bytes_storeBytes body 0 Memory.wf_clear

theorem read_recvHolding (cfg : Config) {body : List Byte} {k : Nat} (hk : k < body.length) :
    (recvHolding cfg body).buf.read k = body.getD k 0#8 := by
  have hread := Memory.bytes_getD (m := (recvHolding cfg body).buf) hk 0#8
  rw [← hread]
  exact congrArg (List.getD · k 0#8) (heldBytes_recvHolding cfg body)

section zeroPayload

variable (cfg : Config) (b0 b1 : Byte)

@[simp] theorem length_zeroPayloadBody : (zeroPayloadBody b0 b1).length = lenOfByte1 b1 + 2 := by
  simp [zeroPayloadBody]

theorem read_zero_zeroPayload : (recvHolding cfg (zeroPayloadBody b0 b1)).buf.read 0 = b0 :=
  read_recvHolding cfg (by simp)

theorem read_one_zeroPayload : (recvHolding cfg (zeroPayloadBody b0 b1)).buf.read 1 = b1 :=
  read_recvHolding cfg (by simp)

theorem heldHeader_zeroPayload : heldHeader (recvHolding cfg (zeroPayloadBody b0 b1)) = headerWordOf b0 b1 := by
  rw [heldHeader, read_zero_zeroPayload, read_one_zeroPayload]

/-- R165: with the payload of the declared length held, the next byte completes the frame. -/
theorem completes_zeroPayload (b : Byte) : completes (recvHolding cfg (zeroPayloadBody b0 b1)) b = true := by
  have hcnt : (recvHolding cfg (zeroPayloadBody b0 b1)).cnt = lenOfByte1 b1 + 2 := length_zeroPayloadBody b0 b1
  simp [completes, declaredLen, hcnt, read_one_zeroPayload]

end zeroPayload

/-! ## The step that completes a frame -/

/-- R160, R167: in RECV a byte that completes the frame held runs the instruction in its header. -/
theorem step_of_completes {s : State} (hwf : s.cfg.wf = true) (hst : s.regs.st = .recv) (hrst : s.input.rst = false)
    (hvalid : s.input.inValid = true) (hc : completes s.regs s.input.inByte = true) : step s = exec s.fetch s := by
  have ht : s.transition = .complete := by simp [State.transition, transitionOf, hrst, hst, hvalid, hc]
  simp [step, hwf, ht]

/-- R117: the byte presented is the CRC of the bytes held. -/
theorem crcOk_presenting (s : State) (body : List Byte) : (s.presenting body).crcOk = true :=
  beq_self_eq_true (s.cfg.crc.crc8 body)

theorem step_presenting_zeroPayload {s : State} (hwf : s.cfg.wf = true) (b0 b1 : Byte) :
    step (s.presenting (zeroPayloadBody b0 b1)) =
      exec (decodeWord (headerWordOf b0 b1)) (s.presenting (zeroPayloadBody b0 b1)) := by
  have hfetch : (s.presenting (zeroPayloadBody b0 b1)).fetch = decodeWord (headerWordOf b0 b1) :=
    congrArg decodeWord (heldHeader_zeroPayload s.cfg b0 b1)
  rw [← hfetch]
  exact step_of_completes hwf rfl rfl rfl (completes_zeroPayload s.cfg b0 b1 _)

/-- Settles O30: the placed word is laid out as the encoding of `i`, so the frame held has `i` in its header. -/
theorem placedWordRunsNext : Obligations.PlacedWordRunsNext := by
  intro i s hi hwf
  refine ⟨decodeTableWord_encode hi, ?_, ?_⟩
  · rw [withFetchWord_eq_presenting]
    exact crcOk_presenting s _
  · rw [withFetchWord_eq_presenting, step_presenting_zeroPayload hwf, headerWordOf_bytes, decodeWord_encode hi]

end Sys2Proof.Machine

/-! # What a step does not read (30_encoding.md R97) -/

namespace Sys2Proof.Machine

/-! ## One state, presented with two inputs -/

/-- R97: `s` with the input `i` presented in its next step, and `rest` after it. -/
def State.atInput (s : State) (i : Input) (rest : List Input) : State := { s with inputs := i :: rest }

/-- R200, R201: the registry path alone reads `exp_fam`, and a type-1 header with a command other than 7 takes it. -/
def Header.readsFamily : Header → Bool
  | .t1 h => h.cmd != 7#3
  | .t2 _ => false

section operations

variable {s : State} {i j : Input} {rest : List Input}

@[simp] theorem atInput_cfg : (s.atInput i rest).cfg = s.cfg := rfl
@[simp] theorem atInput_regs : (s.atInput i rest).regs = s.regs := rfl
@[simp] theorem atInput_input : (s.atInput i rest).input = i := rfl
@[simp] theorem atInput_transition : (s.atInput i rest).transition = transitionOf s.regs i := rfl

/-- R11: the end of a step drops its input. -/
theorem atInput_finish (next : Regs) (ev : Option Event) :
    (s.atInput i rest).finish next ev = (s.atInput j rest).finish next ev := rfl

theorem atInput_raw (hbyte : i.inByte = j.inByte) : (s.atInput i rest).raw = (s.atInput j rest).raw := by
  simp [State.raw, hbyte]

theorem unknownCommand_atInput (hbyte : i.inByte = j.inByte) (addr : Option (BitVec 6)) :
    unknownCommand addr (s.atInput i rest) = unknownCommand addr (s.atInput j rest) := by
  rw [unknownCommand_eq, unknownCommand_eq, atInput_raw hbyte]
  exact atInput_finish _ _

theorem dispatchBroadcast_atInput (hbyte : i.inByte = j.inByte) (h : Hdr2) :
    dispatchBroadcast h (s.atInput i rest) = dispatchBroadcast h (s.atInput j rest) := by
  rw [dispatchBroadcast_eq, dispatchBroadcast_eq, atInput_raw hbyte]
  exact atInput_finish _ _

theorem dispatchUnicast_atInput (hbyte : i.inByte = j.inByte) (hfam : i.expFam = j.expFam) (h : Hdr1) :
    dispatchUnicast h (s.atInput i rest) = dispatchUnicast h (s.atInput j rest) := by
  simp only [dispatchUnicast, atInput_input, atInput_cfg, hfam, atInput_raw hbyte, unknownCommand_atInput hbyte]
  rfl

theorem ifCrcOk_atInput (hbyte : i.inByte = j.inByte) {valid valid' : State} (h : valid = valid') :
    ifCrcOk (s.atInput i rest) valid = ifCrcOk (s.atInput j rest) valid' := by
  simp only [ifCrcOk, State.crcOk, atInput_cfg, atInput_regs, atInput_input, hbyte, atInput_raw hbyte, h, raiseError_eq]
  rfl

/-- R201: every instruction reads `in_byte`, and those of the registry path also `exp_fam`. -/
theorem exec_atInput (hbyte : i.inByte = j.inByte) (instr : Instr)
    (hfam : (headerOf instr).readsFamily = true → i.expFam = j.expFam) :
    exec instr (s.atInput i rest) = exec instr (s.atInput j rest) := by
  have hnext {valid valid' : State} (h : valid = valid') :
      (.next (ifCrcOk (s.atInput i rest) valid) : Host.Outcome State Fault Refusal) =
        .next (ifCrcOk (s.atInput j rest) valid') :=
    congrArg _ (ifCrcOk_atInput hbyte h)
  cases instr with
  | data | cfg | data2 | data3 | data4 | data5 | data6 => exact hnext (dispatchUnicast_atInput hbyte (hfam rfl) _)
  | errResponse => exact hnext (by rw [atInput_raw hbyte]; exact atInput_finish _ _)
  | undef0 | undef1 | gotoGateProtocol => exact hnext (dispatchBroadcast_atInput hbyte _)
  | errRequest | broadcastReserved => exact hnext (unknownCommand_atInput hbyte _)

end operations

/-! ## The header bytes that select the registry path -/

/-- R73: T is bit 6 of byte0. -/
theorem and_0x40_eq_zero_of_bit6 {b : Byte} (h : b.extractLsb' 6 1 = 0#1) : b &&& 0x40#8 = 0#8 := by
  have h6 : b[6] = false := by simpa using congrArg (BitVec.getLsbD · 0) h
  refine BitVec.eq_of_getLsbD_eq fun k hk => ?_
  interval_cases k <;> simp [h6]

/-- R74: CMD is byte1 shifted down by 5. -/
theorem extractLsb'_5_3_eq_ushiftRight (b : Byte) : b.extractLsb' 5 3 = (b >>> 5).setWidth 3 := by
  simp [BitVec.extractLsb', BitVec.setWidth_ushiftRight_eq_extractLsb]

theorem headerBytes_of_readsFamily {b0 b1 : Byte} (h : (decodeHeader b0 b1).readsFamily = true) :
    b0 &&& 0x40#8 = 0#8 ∧ b1 >>> 5 ≠ 7#8 := by
  by_cases ht : b0.extractLsb' 6 1 = 0#1
  · refine ⟨and_0x40_eq_zero_of_bit6 ht, fun hcmd => ?_⟩
    simp [decodeHeader, ht, Header.readsFamily, extractLsb'_5_3_eq_ushiftRight, hcmd] at h
  · simp [decodeHeader, ht, Header.readsFamily] at h

/-! ## The step -/

theorem transitionOf_congr {g : Regs} {i j : Input} (hrst : i.rst = j.rst)
    (hvalid : i.rst = false → i.inValid = j.inValid)
    (hbyte : i.rst = false → i.inValid = true → i.inByte = j.inByte) : transitionOf g i = transitionOf g j := by
  unfold transitionOf
  cases hr : i.rst
  · rw [← hrst, hr, ← hvalid hr]
    cases hv : i.inValid
    · rfl
    · rw [hbyte hr hv]
  · rw [← hrst, hr]
    rfl

/-- R160: a byte is taken only without reset and with `in_valid`. -/
theorem byteTaken_of_transition {s : State} (h : s.transition ∈ [.idleByte, .append, .complete, .tmoByte]) :
    s.input.rst = false ∧ s.input.inValid = true := by
  obtain ⟨-, ht⟩ | ⟨hr, ⟨-, ht⟩ | ⟨-, ht⟩ | ⟨-, ht⟩⟩ := transition_cases s
  · simp [ht] at h
  all_goals
    refine ⟨hr, Bool.not_eq_false _ |>.mp fun hv => ?_⟩
    simp [ht, hv] at h

/-- R163: the timer counts in the steps of RECV that do not complete the frame. -/
theorem timerCounts_of_transition {s : State} (h : s.transition ∈ [.append, .recvWait]) :
    s.input.rst = false ∧ s.regs.st = .recv ∧
      (s.input.inValid = false ∨ completes s.regs s.input.inByte = false) := by
  obtain ⟨-, ht⟩ | ⟨hr, ⟨-, ht⟩ | ⟨hst, ht⟩ | ⟨-, ht⟩⟩ := transition_cases s
  · simp [ht] at h
  · rw [ht] at h; split_ifs at h <;> simp at h
  · rw [ht] at h
    split_ifs at h with hv hc
    · simp at h
    · exact ⟨hr, hst, .inr (Bool.eq_false_iff.mpr hc)⟩
    · exact ⟨hr, hst, .inl (Bool.eq_false_iff.mpr hv)⟩
  · rw [ht] at h; split_ifs at h <;> simp at h

/-- R165, R167: a frame is completed in RECV, by a byte. -/
theorem completes_of_transition {s : State} (h : s.transition = .complete) :
    s.input.rst = false ∧ s.regs.st = .recv ∧ s.input.inValid = true ∧ completes s.regs s.input.inByte = true := by
  have hcases := transition_cases s
  rw [h] at hcases
  obtain ⟨-, ht⟩ | ⟨hr, ⟨-, ht⟩ | ⟨hst, ht⟩ | ⟨-, ht⟩⟩ := hcases
  · cases ht
  · split_ifs at ht
  · split_ifs at ht with hv hc
    exact ⟨hr, hst, hv, hc⟩
  · split_ifs at ht

/-- What each transition reads of its input: a byte where one is taken, the tick where the timer counts, and the family
in the completing step of a frame that takes the registry path. -/
theorem step_atInput {s : State} {i j : Input} {rest : List Input}
    (htr : transitionOf s.regs i = transitionOf s.regs j)
    (hbyte : transitionOf s.regs i ∈ [.idleByte, .append, .complete, .tmoByte] → i.inByte = j.inByte)
    (htick : transitionOf s.regs i ∈ [.append, .recvWait] → i.tick = j.tick)
    (hfam : transitionOf s.regs i = .complete → (headerOf (decodeWord (heldHeader s.regs))).readsFamily = true →
      i.expFam = j.expFam) :
    step (s.atInput i rest) = step (s.atInput j rest) := by
  by_cases hwf : s.cfg.wf
  · simp only [step, atInput_cfg, atInput_transition, ← htr, hwf, if_true]
    cases ht : transitionOf s.regs i <;> rw [ht] at hbyte htick hfam
    case reset | idleWait | tmoWait => rfl
    case idleByte => simp only [idleByteStep, atInput_input, hbyte (by decide), atInput_cfg]; rfl
    case append =>
      simp only [appendStep, appendRegs, atInput_regs, atInput_cfg, atInput_input, hbyte (by decide), htick (by decide)]
      rfl
    case complete => exact exec_atInput (hbyte (by decide)) _ (hfam rfl)
    case recvWait =>
      simp only [recvWaitStep, recvWaitRegs, atInput_regs, atInput_cfg, atInput_input, htick (by decide)]
      rfl
    case tmoByte =>
      simp only [tmoByteStep, timeoutStep, raiseError_eq, atInput_regs, atInput_cfg, atInput_input, hbyte (by decide)]
      rfl
  · simp [step, hwf]

/-- Settles O48: the hypotheses give each transition what it reads. -/
theorem unreadInputsDoNotMatter : Obligations.UnreadInputsDoNotMatter := by
  intro s i j rest hrst hvalid hbyte htick hfam
  refine step_atInput (transitionOf_congr hrst hvalid hbyte) ?_ ?_ ?_
  · intro ht
    obtain ⟨hr, hv⟩ := byteTaken_of_transition (s := s.atInput i rest) ht
    exact hbyte hr hv
  · intro ht
    obtain ⟨hr, hst, hc⟩ := timerCounts_of_transition (s := s.atInput i rest) ht
    exact htick hr hst hc
  · intro ht hreads
    obtain ⟨hr, hst, hv, hc⟩ := completes_of_transition (s := s.atInput i rest) ht
    rw [heldHeader, headerOf_decodeWord, headerOfWord_headerWordOf] at hreads
    obtain ⟨hb0, hb1⟩ := headerBytes_of_readsFamily hreads
    exact hfam hr hst hv hc hb0 hb1

end Sys2Proof.Machine

/-! # The event port and the status port (30_encoding.md R91, R98, R99) -/

namespace Sys2Proof.Machine

/-! ## `ev_raw` -/

theorem packRaw_cons_low (b : Byte) (bs : List Byte) : (packRaw (b :: bs)).extractLsb' 0 8 = b := by
  refine BitVec.eq_of_getLsbD_eq fun k hk => ?_
  have hk' : k < 272 := by omega
  simp [packRaw, hk, hk']

/-- R99: the bytes of the tail stand one byte higher. -/
theorem packRaw_cons_succ (b : Byte) (bs : List Byte) {i : Nat} (hi : i + 1 < 34) :
    (packRaw (b :: bs)).extractLsb' (8 * (i + 1)) 8 = (packRaw bs).extractLsb' (8 * i) 8 := by
  refine BitVec.eq_of_getLsbD_eq fun k hk => ?_
  have hindex : 8 * (i + 1) + k = 8 * i + k + 8 := by omega
  have hhigh : b.getLsbD (8 * i + k + 8) = false := BitVec.getLsbD_of_ge _ _ (by omega)
  have hlt : 8 * i + k + 8 < 272 := by omega
  simp only [packRaw, BitVec.getLsbD_extractLsb', BitVec.getLsbD_or, BitVec.getLsbD_shiftLeft,
    BitVec.getLsbD_setWidth, hindex, hhigh]
  simp [hlt]

/-- R99: byte `i` of the port is byte `i` of the list; the port has room for 34. -/
theorem extractLsb'_packRaw (raw : List Byte) {i : Nat} (hi : i < 34) :
    (packRaw raw).extractLsb' (8 * i) 8 = raw.getD i 0x00#8 := by
  induction raw generalizing i with
  | nil => exact BitVec.extractLsb'_zero
  | cons b bs ih =>
    cases i with
    | zero => exact packRaw_cons_low b bs
    | succ i => rw [packRaw_cons_succ b bs hi, ih (by omega), List.getD_cons_succ]

/-! ## `ev_kind` -/

theorem ErrKind.code_ne_seven (k : ErrKind) : k.code ≠ 7#3 := by
  cases k <;> decide

/-- R247: kind 7, LENGTH_OUT_OF_RANGE, is the code of no event. -/
theorem Event.kindCode_ne_seven (e : Event) : e.kindCode ≠ 7#3 := by
  cases e with
  | err k _ _ => exact k.code_ne_seven
  | _ => simp [Event.kindCode]

theorem eventPort_evKind_ne_seven (ev : Option Event) : (eventPort ev).evKind ≠ 7#3 := by
  cases ev with
  | none => exact (by decide : (0#3 : BitVec 3) ≠ 7#3)
  | some e => exact e.kindCode_ne_seven

/-! ## The status port -/

theorem busy_iff (g : Regs) : busy g = true ↔ g.st ≠ .idle := by
  simp [busy]

theorem hdrValid_iff (g : Regs) : hdrValid g = true ↔ (g.st = .recv ∨ g.st = .tmo) ∧ 2 ≤ g.cnt := by
  simp [hdrValid]

/-- R27: no column lets `cnt` pass the end of the buffer. -/
theorem Regs.cnt_le_of_inv {cfg : Config} {g : Regs} (h : g.inv cfg = true) : g.cnt ≤ bufBytes := by
  by_cases hst : g.st = .idle
  · obtain ⟨-, -, hcnt, -⟩ := (Regs.inv_idle_iff hst).mp h
    omega
  · exact (Regs.holdsPartial_of_inv h hst).cntLe

/-- R98: in IDLE the buffer reads 0x00 everywhere. -/
theorem heldHeader_of_idle {cfg : Config} {g : Regs} (h : g.inv cfg = true) (hst : g.st = .idle) :
    heldHeader g = 0x0000#16 := by
  obtain ⟨-, hbelow, hcnt, -⟩ := (Regs.inv_idle_iff hst).mp h
  rw [hcnt] at hbelow
  rw [heldHeader, Memory.read_of_below (Nat.zero_le 0) hbelow, Memory.read_of_below (Nat.zero_le 1) hbelow]
  rfl

/-! ## The obligations -/

/-- Settles O57, by induction on the raw bytes. -/
theorem eventPortPacksTheRawBytes : Obligations.EventPortPacksTheRawBytes := fun raw _ _ hi =>
  extractLsb'_packRaw raw hi

/-- Settles O56: each field by its definition, and no kind with code 7. -/
theorem eventPortCarriesTheEvent : Obligations.EventPortCarriesTheEvent := by
  refine ⟨rfl, fun _ _ _ _ _ => rfl, fun _ _ _ => rfl, fun _ _ _ => rfl, fun k _ _ => ?_, eventPort_evKind_ne_seven⟩
  cases k <;> rfl

/-- Settles O58: the bound on `cnt` and the cleared buffer of IDLE are R27's. -/
theorem statusPortShowsTheRegisters : Obligations.StatusPortShowsTheRegisters := by
  intro s hinv
  obtain ⟨-, hregs⟩ := (State.inv_iff s).mp hinv
  refine ⟨?_, ?_, busy_iff s.regs, hdrValid_iff s.regs, rfl, heldHeader_of_idle hregs⟩
  · cases hst : s.regs.st <;> simp only [statusPort, hst, Fsm.code]
  · have hcnt : s.regs.cnt ≤ 33 := Regs.cnt_le_of_inv hregs
    rw [statusPort, BitVec.toNat_ofNat, Nat.mod_eq_of_lt (by omega)]

end Sys2Proof.Machine

/-! # The pseudo-instructions of the stimulus notation (30_encoding.md R94) -/

namespace Sys2Proof.Machine

section expand

variable (cfg : Config) (fam : BitVec 3)

theorem expandFrom_nil : expandFrom cfg fam [] = .ok [] := rfl

variable {cfg fam}

theorem expandFrom_cons_ok {l : Line} {ls : List Line} {is js : List Input} (hl : l.inputs cfg fam = .ok is)
    (hls : expandFrom cfg (l.famAfter fam) ls = .ok js) : expandFrom cfg fam (l :: ls) = .ok (is ++ js) := by
  rw [expandFrom, hl]
  simp only [hls]

theorem expandFrom_singleton_ok {l : Line} {is : List Input} (hl : l.inputs cfg fam = .ok is) :
    expandFrom cfg fam [l] = .ok is := by
  rw [expandFrom_cons_ok hl (expandFrom_nil cfg _), List.append_nil]

/-- R93: lines of one step each, none of them a `FAM` line, expand to one input a line. -/
theorem expandFrom_map_ok {α : Type} {line : α → Line} {input : α → Input}
    (hline : ∀ a, (line a).inputs cfg fam = .ok [input a]) (hfam : ∀ a, (line a).famAfter fam = fam) (as : List α) :
    expandFrom cfg fam (as.map line) = .ok (as.map input) := by
  induction as with
  | nil => rfl
  | cons a as ih => exact expandFrom_cons_ok (hline a) ((hfam a).symm ▸ ih)

theorem expandFrom_replicate_ok {l : Line} {i : Input} (hline : l.inputs cfg fam = .ok [i])
    (hfam : l.famAfter fam = fam) (k : Nat) : expandFrom cfg fam (List.replicate k l) = .ok (List.replicate k i) := by
  have hmap := expandFrom_map_ok (line := fun _ : Unit => l) (input := fun _ => i) (fun _ => hline) (fun _ => hfam)
    (List.replicate k ())
  rwa [List.map_replicate, List.map_replicate] at hmap

theorem expandFrom_frame (bytes : List Byte) :
    expandFrom cfg fam [.frame bytes] = .ok (bytes.map (byteInput fam false)) :=
  expandFrom_singleton_ok rfl

theorem expandFrom_send1 {addr cmd : Nat} {r : BitVec 1} {p fr : List Byte}
    (h : buildFrame cfg (.t1 addr r p.length cmd) p = .ok fr) :
    expandFrom cfg fam [.send1 addr r cmd p] = .ok (fr.map (byteInput fam false)) :=
  expandFrom_singleton_ok (by rw [Line.inputs, h]; rfl)

theorem expandFrom_send2 {cmd6 dp1 : Nat} {r : BitVec 1} {p fr : List Byte}
    (h : buildFrame cfg (.t2 cmd6 r p.length dp1) p = .ok fr) :
    expandFrom cfg fam [.send2 cmd6 r dp1 p] = .ok (fr.map (byteInput fam false)) :=
  expandFrom_singleton_ok (by rw [Line.inputs, h]; rfl)

end expand

/-! ## The obligation -/

/-- Settles O60: both sides of each expansion present the same inputs. -/
theorem pseudoInstructionsExpand : Obligations.PseudoInstructionsExpand := by
  intro cfg fam
  refine ⟨fun k => ?ticks, fun k => ?gaps, fun xs => ?frame, fun _ _ _ _ _ h => ?send1, fun _ _ _ _ _ h => ?send2⟩
  case ticks => rw [expandFrom_replicate_ok (l := .t) rfl rfl]; exact expandFrom_singleton_ok rfl
  case gaps => rw [expandFrom_replicate_ok (l := .n) rfl rfl]; exact expandFrom_singleton_ok rfl
  case frame => rw [expandFrom_frame, expandFrom_map_ok (line := .b) (fun _ => rfl) (fun _ => rfl)]
  case send1 => rw [expandFrom_send1 h, expandFrom_frame]
  case send2 => rw [expandFrom_send2 h, expandFrom_frame]

end Sys2Proof.Machine

/-! # The CRC-8 validator (40_crc.md R111 to R119) -/

namespace Sys2Proof

/-! ## The fold, one byte and one error at a time -/

section fold

variable (crc : Crc)

@[simp] theorem Crc.fold_cons (c b : Byte) (bs : List Byte) : crc.fold c (b :: bs) = crc.fold (crc.step c b) bs := rfl

theorem Crc.fold_append (c : Byte) (as bs : List Byte) : crc.fold c (as ++ bs) = crc.fold (crc.fold c as) bs :=
  List.foldl_append

theorem Crc.crc8_append_cons (pre post : List Byte) (b : Byte) :
    crc.crc8 (pre ++ b :: post) = crc.final (crc.fold (crc.step (crc.fold crc.init pre) b) post) := by
  rw [Crc.crc8, Crc.fold_append, Crc.fold_cons]

/-- R117: `validate` compares the last byte with the CRC of those before it. -/
theorem Crc.validate_append_byte (bs : List Byte) (b : Byte) : crc.validate (bs ++ [b]) = (crc.crc8 bs == b) := by
  simp [Crc.validate]

end fold

/-- R112: an inverted bit, with the bytes before and after the byte it is in. -/
theorem exists_of_flipBit {bs : List Byte} {i : Nat} (hi : i < bs.length) (j : Nat) :
    ∃ pre b post, bs = pre ++ b :: post ∧ pre.length = i ∧ flipBit bs i j = pre ++ (b ^^^ 1#8 <<< j) :: post :=
  List.exists_of_modify _ hi

theorem flipBit_append_cons (pre post : List Byte) (b : Byte) (j : Nat) :
    flipBit (pre ++ b :: post) pre.length j = pre ++ (b ^^^ 1#8 <<< j) :: post := by
  rw [flipBit, List.modify_eq_take_cons_drop (by simp)]
  simp

/-! ## One iteration of R113 is linear -/

section shift

variable (poly : Byte)

theorem crcShift_of_msb {x : Byte} (h : x.msb = true) : crcShift poly x = x <<< 1 ^^^ poly := if_pos h

theorem crcShift_of_not_msb {x : Byte} (h : x.msb = false) : crcShift poly x = x <<< 1 :=
  if_neg (Bool.eq_false_iff.mp h)

theorem crcShift_eq_xor (x : Byte) : crcShift poly x = x <<< 1 ^^^ if x.msb then poly else 0#8 := by
  cases h : x.msb
  · rw [crcShift_of_not_msb poly h, if_neg Bool.false_ne_true, BitVec.xor_zero]
  · rw [crcShift_of_msb poly h, if_pos rfl]

theorem crcShift_xor (x y : Byte) : crcShift poly (x ^^^ y) = crcShift poly x ^^^ crcShift poly y := by
  have hcarry : (if (x ^^^ y).msb then poly else 0#8) =
      (if x.msb then poly else 0#8) ^^^ if y.msb then poly else 0#8 := by
    rw [BitVec.msb_xor]
    cases x.msb <;> cases y.msb <;> simp
  rw [crcShift_eq_xor, crcShift_eq_xor, crcShift_eq_xor, hcarry, BitVec.shiftLeft_xor_distrib]
  ac_rfl

theorem crcShift_iterate_xor (n : Nat) (x y : Byte) :
    (crcShift poly)^[n] (x ^^^ y) = (crcShift poly)^[n] x ^^^ (crcShift poly)^[n] y := by
  induction n generalizing x y with
  | zero => rfl
  | succ n ih => rw [Function.iterate_succ_apply, crcShift_xor, ih]; rfl

end shift

/-- R115: with the generator x^8 + 1 an iteration rotates the register: bit 7 goes out at the top and in at bit 0. -/
theorem crcShift_one (x : Byte) : crcShift 0x01#8 x = x.rotateLeft 1 := by
  have hmsb : x.msb = x.getLsbD 7 := BitVec.msb_eq_getLsbD_last x
  refine BitVec.eq_of_getLsbD_eq fun k hk => ?_
  rw [crcShift_eq_xor, hmsb]
  cases h7 : x.getLsbD 7 <;> interval_cases k <;> simp_all

/-- R115: eight rotations by one bit give the register back. -/
theorem crcShift_one_iterate_eight : (crcShift 0x01#8)^[8] = id := by
  refine funext fun x => BitVec.eq_of_getLsbD_eq fun k hk => ?_
  simp only [Function.iterate_succ_apply, Function.iterate_zero_apply, crcShift_one, id]
  interval_cases k <;> simp

/-- R113: with the generator x^8 an iteration shifts alone. -/
theorem crcShift_zero_iterate (n : Nat) (x : Byte) : (crcShift 0x00#8)^[n] x = x <<< n := by
  induction n with
  | zero => simp
  | succ n ih =>
    rw [Function.iterate_succ_apply', ih, BitVec.shiftLeft_add]
    simp [crcShift]

/-! ## An iteration under a nonzero polynomial loses no single bit

The generator is x^8 + poly. Where bit `a` of poly is its lowest set bit, the register values whose bits below `a` are 0 are
the multiples of x^a. They are closed under an iteration, and an iteration gives 0 of none of them but 0: it gives 0 of a
nonzero value only when poly is that value shifted, a multiple of x^(a+1), in which bit `a` is 0. A single
bit shifts up to bit 7 and from there becomes poly, which is such a multiple. -/

/-- The multiples of x^a. -/
def LowZero (a : Nat) (v : Byte) : Prop := ∀ i < a, v.getLsbD i = false

theorem LowZero.shiftLeft {a : Nat} {v : Byte} (h : LowZero a v) : LowZero (a + 1) (v <<< 1) := by
  intro i hi
  rw [BitVec.getLsbD_shiftLeft]
  cases i with
  | zero => simp
  | succ i => simp [h i (by omega)]

theorem LowZero.mono {a k : Nat} {v : Byte} (h : LowZero a v) (hk : k ≤ a) : LowZero k v := fun i hi =>
  h i (by omega)

theorem LowZero.xor {a : Nat} {v w : Byte} (hv : LowZero a v) (hw : LowZero a w) : LowZero a (v ^^^ w) := fun i hi => by
  rw [BitVec.getLsbD_xor, hv i hi, hw i hi]
  rfl

theorem exists_lowest_bit {v : Byte} (h : v ≠ 0#8) : ∃ a, v.getLsbD a = true ∧ LowZero a v := by
  have hex : ∃ a, v.getLsbD a = true := by
    by_contra! hnone
    exact h (BitVec.eq_of_getLsbD_eq fun i _ => by simpa using hnone i)
  exact ⟨Nat.find hex, Nat.find_spec hex, fun i hi => Bool.eq_false_iff.mpr (Nat.find_min hex hi)⟩

section lowest

variable {poly : Byte} {a : Nat}

theorem lowZero_crcShift {v : Byte} (hpoly : LowZero a poly) (hv : LowZero a v) : LowZero a (crcShift poly v) := by
  have hshift : LowZero a (v <<< 1) := hv.shiftLeft.mono (Nat.le_succ a)
  cases h : v.msb
  · rwa [crcShift_of_not_msb _ h]
  · rw [crcShift_of_msb _ h]
    exact hshift.xor hpoly

theorem crcShift_ne_zero {v : Byte} (hbit : poly.getLsbD a = true) (hv : LowZero a v) (h0 : v ≠ 0#8) :
    crcShift poly v ≠ 0#8 := by
  intro hzero
  cases hmsb : v.msb
  · rw [crcShift_of_not_msb _ hmsb] at hzero
    rw [BitVec.msb_eq_false_iff_two_mul_lt] at hmsb
    bv_omega
  · rw [crcShift_of_msb _ hmsb, BitVec.xor_eq_zero_iff] at hzero
    rw [← hzero, hv.shiftLeft a (Nat.lt_succ_self a)] at hbit
    cases hbit

/-- A single bit shifts up, and out of bit 7 it becomes poly. -/
theorem crcShift_oneBit {i : Nat} (hi : i < 8) :
    (i + 1 < 8 ∧ crcShift poly (1#8 <<< i) = 1#8 <<< (i + 1)) ∨
      crcShift poly (1#8 <<< i) = poly := by
  by_cases h7 : i = 7
  · subst h7
    exact .inr ((crcShift_of_msb poly rfl).trans BitVec.zero_xor)
  · have hi7 : i < 7 := by omega
    have hmsb : (1#8 <<< i).msb = false := by interval_cases i <;> rfl
    exact .inl ⟨by omega, by rw [crcShift_of_not_msb _ hmsb, BitVec.shiftLeft_add]⟩

/-- R112: what an iteration keeps of a single-bit error: it is a single bit, or a nonzero multiple of x^a. -/
def ErrorAlive (a : Nat) (v : Byte) : Prop := (∃ i < 8, v = 1#8 <<< i) ∨ v ≠ 0#8 ∧ LowZero a v

theorem ErrorAlive.ne_zero {v : Byte} (h : ErrorAlive a v) : v ≠ 0#8 := by
  obtain ⟨i, hi, rfl⟩ | ⟨h0, -⟩ := h
  · interval_cases i <;> decide
  · exact h0

theorem errorAlive_crcShift {v : Byte} (hbit : poly.getLsbD a = true) (hpoly : LowZero a poly) (h : ErrorAlive a v) :
    ErrorAlive a (crcShift poly v) := by
  obtain ⟨i, hi, rfl⟩ | ⟨h0, hv⟩ := h
  · obtain ⟨hi', hshift⟩ | hshift := crcShift_oneBit (poly := poly) hi
    · exact .inl ⟨i + 1, hi', hshift⟩
    · rw [hshift]
      refine .inr ⟨?_, hpoly⟩
      rintro rfl
      simp at hbit
  · exact .inr ⟨crcShift_ne_zero hbit hv h0, lowZero_crcShift hpoly hv⟩

end lowest

theorem crcShift_iterate_oneBit_ne_zero {poly : Byte} (h : poly ≠ 0#8) (n : Nat) {i : Nat} (hi : i < 8) :
    (crcShift poly)^[n] (1#8 <<< i) ≠ 0#8 := by
  obtain ⟨a, hbit, hpoly⟩ := exists_lowest_bit h
  refine ErrorAlive.ne_zero (a := a) ?_
  induction n with
  | zero => exact .inl ⟨i, hi, rfl⟩
  | succ n ih =>
    rw [Function.iterate_succ_apply']
    exact errorAlive_crcShift hbit hpoly ih

/-! ## The parameterised CRC (R113) -/

/-- R9: `rev8` is the library's reversal. -/
theorem rev8_eq_reverse (b : Byte) : rev8 b = b.reverse := by
  refine BitVec.eq_of_getLsbD_eq fun k hk => ?_
  rw [BitVec.getLsbD_reverse, BitVec.getMsbD_eq_getLsbD]
  simp only [rev8, List.range_succ, List.range_zero, List.nil_append, List.cons_append, List.foldl_cons, List.foldl_nil]
  interval_cases k <;> simp

theorem rev8_injective : Function.Injective rev8 := fun x y h => by
  rw [rev8_eq_reverse, rev8_eq_reverse] at h
  exact BitVec.eq_of_getLsbD_eq fun k _ => by rw [← BitVec.getMsbD_reverse, h, BitVec.getMsbD_reverse]

theorem rev8_xor (x y : Byte) : rev8 (x ^^^ y) = rev8 x ^^^ rev8 y := by
  simp only [rev8_eq_reverse]
  refine BitVec.eq_of_getLsbD_eq fun k _ => ?_
  simp only [BitVec.getLsbD_reverse, BitVec.getLsbD_xor, BitVec.getMsbD_xor]

theorem rev8_oneBit {j : Nat} (hj : j < 8) : rev8 (1#8 <<< j) = 1#8 <<< (7 - j) := by
  interval_cases j <;> decide

/-- R113: the byte as `crcStep` takes it in, reflected or not. -/
def CrcParams.feed (p : CrcParams) (b : Byte) : Byte := if p.refin then rev8 b else b

section params

variable (p : CrcParams)

theorem CrcParams.step_eq (c b : Byte) : (Crc.params p).step c b = (crcShift p.poly)^[8] (c ^^^ p.feed b) := rfl

theorem CrcParams.feed_xor (x y : Byte) : p.feed (x ^^^ y) = p.feed x ^^^ p.feed y := by
  cases h : p.refin <;> simp [CrcParams.feed, h, rev8_xor]

/-- Reflected or not, a single bit is fed in as a single bit. -/
theorem CrcParams.feed_oneBit {j : Nat} (hj : j < 8) : ∃ i < 8, p.feed (1#8 <<< j) = 1#8 <<< i := by
  cases h : p.refin
  · exact ⟨j, hj, by simp [CrcParams.feed, h]⟩
  · exact ⟨7 - j, by omega, by simp [CrcParams.feed, h, rev8_oneBit hj]⟩

theorem CrcParams.final_injective : Function.Injective (Crc.params p).final := fun x y h => by
  have hout : (if p.refout then rev8 x else x) = if p.refout then rev8 y else y := (BitVec.xor_left_inj _).mp h
  cases hr : p.refout <;> simp only [hr, if_true, Bool.false_eq_true, if_false] at hout
  · exact hout
  · exact rev8_injective hout

theorem CrcParams.step_xor_left (c d b : Byte) :
    (Crc.params p).step (c ^^^ d) b = (Crc.params p).step c b ^^^ (crcShift p.poly)^[8] d := by
  rw [CrcParams.step_eq, CrcParams.step_eq, ← crcShift_iterate_xor]
  congr 1
  ac_rfl

theorem CrcParams.step_xor_right (c b e : Byte) :
    (Crc.params p).step c (b ^^^ e) = (Crc.params p).step c b ^^^ (crcShift p.poly)^[8] (p.feed e) := by
  rw [CrcParams.step_eq, CrcParams.step_eq, CrcParams.feed_xor, ← crcShift_iterate_xor, BitVec.xor_assoc]

/-- A difference in the register goes through eight iterations a byte, whatever the bytes are. -/
theorem CrcParams.fold_xor (c d : Byte) (bs : List Byte) :
    (Crc.params p).fold (c ^^^ d) bs = (Crc.params p).fold c bs ^^^ (crcShift p.poly)^[8 * bs.length] d := by
  induction bs generalizing c d with
  | nil => rfl
  | cons b bs ih =>
    rw [Crc.fold_cons, Crc.fold_cons, CrcParams.step_xor_left, ih, ← Function.iterate_add_apply, List.length_cons,
      Nat.mul_succ]

/-- R112: the trace that an error in one byte leaves in the register at the end. -/
theorem CrcParams.fold_append_cons_xor (c b e : Byte) (pre post : List Byte) :
    (Crc.params p).fold c (pre ++ (b ^^^ e) :: post) =
      (Crc.params p).fold c (pre ++ b :: post) ^^^ (crcShift p.poly)^[8 * (post.length + 1)] (p.feed e) := by
  rw [Crc.fold_append, Crc.fold_append, Crc.fold_cons, Crc.fold_cons, CrcParams.step_xor_right, CrcParams.fold_xor,
    ← Function.iterate_add_apply, Nat.mul_succ]

/-- R112: an error in one byte goes unseen exactly when its trace is 0. -/
theorem CrcParams.crc8_append_cons_xor_eq_iff (b e : Byte) (pre post : List Byte) :
    (Crc.params p).crc8 (pre ++ (b ^^^ e) :: post) = (Crc.params p).crc8 (pre ++ b :: post) ↔
      (crcShift p.poly)^[8 * (post.length + 1)] (p.feed e) = 0#8 := by
  rw [Crc.crc8, Crc.crc8, (CrcParams.final_injective p).eq_iff, CrcParams.fold_append_cons_xor]
  nth_rw 2 [← BitVec.xor_zero (x := (Crc.params p).fold _ (pre ++ b :: post))]
  exact BitVec.xor_right_inj _

/-- R112, R119: under a nonzero polynomial an inverted bit changes the CRC, in any number of covered bytes. -/
theorem CrcParams.detectsSingleBit_of_poly (h : p.poly ≠ 0#8) : (Crc.params p).DetectsSingleBit := by
  intro bs i j _ _ hi hj
  obtain ⟨pre, b, post, rfl, -, hflip⟩ := exists_of_flipBit hi j
  obtain ⟨k, hk, hfeed⟩ := p.feed_oneBit hj
  rw [hflip, ne_eq, CrcParams.crc8_append_cons_xor_eq_iff, hfeed]
  exact crcShift_iterate_oneBit_ne_zero h _ hk

/-- R112: the polynomial 0x00 shifts every error out of the register; the first of two bytes shows it. -/
theorem CrcParams.poly_ne_zero_of_detectsSingleBit (h : (Crc.params p).DetectsSingleBit) : p.poly ≠ 0#8 := by
  intro hpoly
  refine h [0x00#8, 0x00#8] 0 0 (by simp) (by simp) (by simp) (by simp) ?_
  refine (p.crc8_append_cons_xor_eq_iff 0x00#8 (1#8 <<< 0) [] [0x00#8]).mpr ?_
  rw [hpoly, crcShift_zero_iterate]
  exact BitVec.shiftLeft_eq_zero (by simp)

end params

/-! ## The default CRC (R114) -/

theorem default_step (c b : Byte) : Crc.default.step c b = c ^^^ b :=
  congrFun crcShift_one_iterate_eight (c ^^^ b)

theorem default_final (c : Byte) : Crc.default.final c = c := BitVec.xor_zero

theorem default_crc8 (bs : List Byte) : Crc.default.crc8 bs = bs.foldl (fun c b => c ^^^ b) 0x00#8 := by
  have hstep : Crc.default.step = fun c b => c ^^^ b := funext₂ default_step
  rw [Crc.crc8, default_final, Crc.fold, hstep]
  rfl

/-- R119: the trace of an error under the default CRC is the error itself. -/
theorem default_crc8_append_cons_xor (b e : Byte) (pre post : List Byte) :
    Crc.default.crc8 (pre ++ (b ^^^ e) :: post) = Crc.default.crc8 (pre ++ b :: post) ^^^ e := by
  have htrace : (crcShift 0x01#8)^[8 * (post.length + 1)] e = e := by
    rw [Function.iterate_mul, crcShift_one_iterate_eight, Function.iterate_id, id]
  rw [Crc.crc8, Crc.crc8, default_final, default_final]
  exact (CrcParams.fold_append_cons_xor _ _ b e pre post).trans (congrArg (_ ^^^ ·) htrace)

/-- Settles O9: eight iterations of R113 rotate the register back to where it was. -/
theorem defaultCrcIsTheXorOfTheBytes : Obligations.DefaultCrcIsTheXorOfTheBytes :=
  ⟨fun c b => ⟨default_step c b, default_final c⟩, default_crc8, default_final 0x00#8⟩

/-- Settles O10: the inverted bit is the trace of the error at the end of the bytes. -/
theorem defaultCrcInvertsTheFlippedBit : Obligations.DefaultCrcInvertsTheFlippedBit := by
  intro bs i j hi _
  obtain ⟨pre, b, post, rfl, -, hflip⟩ := exists_of_flipBit hi j
  rw [hflip, default_crc8_append_cons_xor]

/-- Settles O11: by linearity R112 asks that the trace of a single bit is never 0. -/
theorem polynomialCheckIsSingleBitDetection : Obligations.PolynomialCheckIsSingleBitDetection := fun p =>
  bne_iff_ne.trans ⟨p.detectsSingleBit_of_poly, p.poly_ne_zero_of_detectsSingleBit⟩

end Sys2Proof

/-! # The check of a tabulated triple (40_crc.md R112) -/

namespace Sys2Proof

/-! ## R112 by the index of the byte in error -/

section detection

variable (crc : Crc)

/-- Every run of at most `k` bytes from `p` and `q` ends in different final values. -/
def Crc.KeptApart (k : Nat) (p q : Byte) : Prop :=
  ∀ post : List Byte, post.length ≤ k → crc.final (crc.fold p post) ≠ crc.final (crc.fold q post)

/-- R112 for the errors in byte `i`: with the bytes `pre` before it and `post` after it, 2 to 33 bytes in all. -/
def Crc.DetectsAt (i : Nat) : Prop :=
  ∀ (pre post : List Byte) (b : Byte) (j : Nat), pre.length = i → j < 8 → 1 ≤ i + post.length → i + post.length ≤ 32 →
    crc.crc8 (pre ++ b :: post) ≠ crc.crc8 (pre ++ (b ^^^ 1#8 <<< j) :: post)

theorem Crc.detectsSingleBit_iff : crc.DetectsSingleBit ↔ ∀ i ≤ 32, crc.DetectsAt i := by
  constructor
  · intro h i _ pre post b j hpre hj hpos hle
    subst hpre
    have hne := h (pre ++ b :: post) pre.length j (by simp; omega) (by simp; omega) (by simp) hj
    rw [flipBit_append_cons] at hne
    exact hne.symm
  · intro h bs i j hpos hle hi hj
    obtain ⟨pre, b, post, rfl, hpre, hflip⟩ := exists_of_flipBit hi j
    rw [List.length_append, List.length_cons] at hpos hle
    rw [hflip]
    exact (h i (by omega) pre post b j hpre hj (by omega) (by omega)).symm

variable {crc}

theorem Crc.keptApart_zero_iff {p q : Byte} : crc.KeptApart 0 p q ↔ crc.final p ≠ crc.final q := by
  constructor
  · intro h
    exact h [] le_rfl
  · intro h post hpost
    rw [List.eq_nil_of_length_eq_zero (Nat.le_zero.mp hpost)]
    exact h

theorem Crc.keptApart_succ_iff {k : Nat} {p q : Byte} :
    crc.KeptApart (k + 1) p q ↔
      crc.final p ≠ crc.final q ∧ ∀ b, crc.KeptApart k (crc.step p b) (crc.step q b) := by
  constructor
  · intro h
    exact ⟨h [] (Nat.zero_le _), fun b post hpost => h (b :: post) (Nat.succ_le_succ hpost)⟩
  · rintro ⟨hfinal, hstep⟩ post hpost
    cases post with
    | nil => exact hfinal
    | cons b post => exact hstep b post (Nat.le_of_succ_le_succ hpost)

/-- An error in a byte after the first may be the last one covered. -/
theorem Crc.detectsAt_succ_iff {i : Nat} (hi : i + 1 ≤ 32) :
    crc.DetectsAt (i + 1) ↔ ∀ (pre : List Byte) (b : Byte) (j : Nat), pre.length = i + 1 → j < 8 →
      crc.KeptApart (31 - i) (crc.step (crc.fold crc.init pre) b)
        (crc.step (crc.fold crc.init pre) (b ^^^ 1#8 <<< j)) := by
  simp only [Crc.DetectsAt, Crc.KeptApart, Crc.crc8_append_cons]
  constructor
  · intro h pre b j hpre hj post hpost
    exact h pre post b j hpre hj (by omega) (by omega)
  · intro h pre post b j hpre hj _ hle
    exact h pre b j hpre hj post (by omega)

/-- An error in the first byte has a byte after it. -/
theorem Crc.detectsAt_zero_iff :
    crc.DetectsAt 0 ↔ ∀ (pre : List Byte) (b : Byte) (j : Nat), pre.length = 0 → j < 8 → ∀ b' : Byte,
      crc.KeptApart 31 (crc.step (crc.step (crc.fold crc.init pre) b) b')
        (crc.step (crc.step (crc.fold crc.init pre) (b ^^^ 1#8 <<< j)) b') := by
  simp only [Crc.DetectsAt, Crc.KeptApart, Crc.crc8_append_cons]
  constructor
  · intro h pre b j hpre hj b' post hpost
    exact h pre (b' :: post) b j hpre hj (by simp) (by simp; omega)
  · intro h pre post b j hpre hj hpos hle
    cases post with
    | nil => simp at hpos
    | cons b' post => exact h pre b j hpre hj b' post (by simp at hle; omega)

end detection

/-! ## Tables and searches over all bytes -/

theorem mem_allBytes (b : Byte) : b ∈ allBytes :=
  List.mem_map.mpr ⟨b.toNat, List.mem_range.mpr b.isLt, by simp⟩

theorem allBytes_all_iff {f : Byte → Bool} : allBytes.all f = true ↔ ∀ b, f b = true := by
  simp [List.all_eq_true, mem_allBytes]

theorem allBytes_any_iff {f : Byte → Bool} : allBytes.any f = true ↔ ∃ b, f b = true := by
  simp [List.any_eq_true, mem_allBytes]

theorem oneBits_all_iff {f : Byte → Bool} : oneBits.all f = true ↔ ∀ j < 8, f (1#8 <<< j) = true := by
  simp [oneBits, List.all_eq_true]

@[simp] theorem tableAt_ofFn {α : Type} (f : Fin 256 → α) (i : Byte) : tableAt (Vector.ofFn f) i = f i.toFin :=
  Vector.getElem_ofFn i.isLt

@[simp] theorem tableAt_pairTable (f : Byte → Byte → Bool) (p q : Byte) :
    tableAt (tableAt (pairTable f) p) q = f p q := by
  rw [pairTable, tableAt_ofFn, tableAt_ofFn]

/-- `d` is the table of the relation `r`. -/
def PairTable.Represents (d : PairTable) (r : Byte → Byte → Prop) : Prop :=
  ∀ p q, tableAt (tableAt d p) q = true ↔ r p q

section table

variable (t : CrcTable)

theorem CrcTable.apart_represents : t.apart.Represents ((Crc.table t).KeptApart 0) := fun p q => by
  rw [CrcTable.apart, tableAt_pairTable, bne_iff_ne]
  exact (Crc.keptApart_zero_iff (crc := .table t)).symm

variable {t}

theorem CrcTable.apartNext_represents {d : PairTable} {k : Nat} (hd : d.Represents ((Crc.table t).KeptApart k)) :
    (t.apartNext d).Represents ((Crc.table t).KeptApart (k + 1)) := fun p q => by
  rw [CrcTable.apartNext, tableAt_pairTable, Bool.and_eq_true, bne_iff_ne, allBytes_all_iff, Crc.keptApart_succ_iff]
  exact and_congr_right fun _ => forall_congr' fun b => hd _ _

/-- `reach k` holds the register values that the runs of `k` bytes end in. -/
theorem CrcTable.reach_iff {k : Nat} {c : Byte} :
    tableAt (t.reach k) c = true ↔ ∃ pre : List Byte, pre.length = k ∧ (Crc.table t).fold t.init pre = c := by
  induction k generalizing c with
  | zero =>
    rw [CrcTable.reach, tableAt_ofFn, beq_iff_eq]
    constructor
    · intro h
      exact ⟨[], rfl, h.symm⟩
    · rintro ⟨pre, hlen, rfl⟩
      rw [List.eq_nil_of_length_eq_zero hlen]
      rfl
  | succ k ih =>
    simp only [CrcTable.reach, tableAt_ofFn, allBytes_any_iff, Bool.and_eq_true, ih, beq_iff_eq]
    constructor
    · rintro ⟨p, ⟨pre, hlen, rfl⟩, b, hstep⟩
      exact ⟨pre ++ [b], by simp [hlen], by rw [Crc.fold_append]; exact hstep⟩
    · rintro ⟨pre, hlen, hfold⟩
      obtain rfl | ⟨pre, b, rfl⟩ := List.eq_nil_or_concat' pre
      · cases hlen
      · rw [Crc.fold_append] at hfold
        exact ⟨_, ⟨pre, by simpa using hlen, rfl⟩, b, hfold⟩

theorem CrcTable.errorsAt_iff {i : Nat} {ok : Byte → Byte → Bool} :
    t.errorsAt i ok = true ↔ ∀ (pre : List Byte) (b : Byte) (j : Nat), pre.length = i → j < 8 →
      ok (t.step ((Crc.table t).fold t.init pre) b) (t.step ((Crc.table t).fold t.init pre) (b ^^^ 1#8 <<< j)) = true := by
  simp only [CrcTable.errorsAt, allBytes_all_iff, oneBits_all_iff, Bool.or_eq_true, Bool.not_eq_true',
    ← Bool.not_eq_true, reach_iff, ← imp_iff_not_or]
  constructor
  · intro h pre b j hpre hj
    exact h _ ⟨pre, hpre, rfl⟩ b j hj
  · rintro h c ⟨pre, hpre, rfl⟩ b j hj
    exact h pre b j hpre hj

/-- From a table of the pairs kept apart by the bytes after byte `i`, `scan` decides R112 for the bytes up to `i`. The
table for byte 0 is the one for byte 1, since an error in byte 0 is followed one byte further. -/
theorem CrcTable.scan_iff {i : Nat} (hi : i ≤ 32) {d : PairTable}
    (hd : d.Represents ((Crc.table t).KeptApart (31 - (i - 1)))) :
    t.scan i d = true ↔ ∀ k ≤ i, (Crc.table t).DetectsAt k := by
  induction i generalizing d with
  | zero =>
    simp only [CrcTable.scan, errorsAt_iff, allBytes_all_iff, hd _ _, Nat.le_zero, forall_eq]
    exact Crc.detectsAt_zero_iff.symm
  | succ i ih =>
    have hlast : t.errorsAt (i + 1) (fun p q => tableAt (tableAt d p) q) = true ↔ (Crc.table t).DetectsAt (i + 1) := by
      simp only [errorsAt_iff, hd _ _]
      exact (Crc.detectsAt_succ_iff hi).symm
    have hnext : PairTable.Represents (if i = 0 then d else t.apartNext d)
        ((Crc.table t).KeptApart (31 - (i - 1))) := by
      split_ifs with h0
      · subst h0
        exact hd
      · have hk : 31 - (i - 1) = 31 - i + 1 := by omega
        rw [hk]
        exact apartNext_represents hd
    rw [CrcTable.scan, Bool.and_eq_true, hlast, ih (by omega) hnext]
    simp only [Nat.le_succ_iff, or_imp, forall_and, forall_eq]
    exact and_comm

end table

/-- Settles O12: `scan` decides R112 for one index after another, from byte 32 down. -/
theorem tableCheckIsSingleBitDetection : Obligations.TableCheckIsSingleBitDetection := fun t =>
  (CrcTable.scan_iff le_rfl t.apart_represents).trans (Crc.table t).detectsSingleBit_iff.symm

end Sys2Proof

/-! # The CRC of the frame received and of the frame built (40_crc.md R117, R118, 41_header.md R146) -/

namespace Sys2Proof.Machine

/-! ## The completing step -/

/-- Settles O13: R27's column RECV has the fold in `crc`, and the arriving byte is the last of the raw bytes. -/
theorem crcCheckValidatesTheFrame : Obligations.CrcCheckValidatesTheFrame := by
  intro s hinv htr
  obtain ⟨-, hst, -, -⟩ := completes_of_transition htr
  obtain ⟨-, hcrc, -⟩ := (Regs.inv_recv_iff hst).mp ((State.inv_iff s).mp hinv).2
  refine ⟨hcrc, beq_iff_eq, ?_⟩
  rw [State.raw, Crc.validate_append_byte, Crc.crc8, ← hcrc, State.crcOk]

/-! ## The header encoder -/

/-- R136, R137: the length that is asked for. -/
def HeaderReq.len : HeaderReq → Nat
  | .t1 _ _ len _ => len
  | .t2 _ _ len _ => len

/-- R136, R137: the value for the low field of byte0, ADDR or CMD6. -/
def HeaderReq.low : HeaderReq → Nat
  | .t1 addr _ _ _ => addr
  | .t2 cmd6 _ _ _ => cmd6

/-- R136, R137: the value for the high field of byte1, CMD or DP1. -/
def HeaderReq.high : HeaderReq → Nat
  | .t1 _ _ _ cmd => cmd
  | .t2 _ _ _ dp1 => dp1

/-- R136, R137: byte0 of a request. -/
def HeaderReq.byte0 : HeaderReq → Byte
  | .t1 addr r _ _ => packByte0 addr 0 r
  | .t2 cmd6 r _ _ => packByte0 cmd6 1 r

section withLen

variable (h : HeaderReq) (n : Nat)

@[simp] theorem len_withLen : (h.withLen n).len = n := by cases h <;> rfl

@[simp] theorem low_withLen : (h.withLen n).low = h.low := by cases h <;> rfl

@[simp] theorem high_withLen : (h.withLen n).high = h.high := by cases h <;> rfl

@[simp] theorem byte0_withLen : (h.withLen n).byte0 = h.byte0 := by cases h <;> rfl

end withLen

/-- R136 to R138: both header types are checked and packed the same way. -/
theorem encodeHeader_eq (h : HeaderReq) :
    encodeHeader h =
      if 31 < h.len then .error .lengthOutOfRange
      else if 63 < h.low ∨ 7 < h.high then .error .fieldOutOfRange
      else .ok (h.byte0, packByte1 h.len h.high) := by
  cases h <;> rfl

/-- R139: a length that fits is not cut off. -/
theorem lenOfByte1_packByte1 {len : Nat} (h : len ≤ 31) (high : Nat) : lenOfByte1 (packByte1 len high) = len := by
  have hhigh : (BitVec.ofNat 8 high <<< 5).extractLsb' 0 5 = 0#5 := by
    refine BitVec.eq_of_getLsbD_eq fun k hk => ?_
    simp [hk]
  rw [lenOfByte1, packByte1, BitVec.extractLsb'_or, hhigh, BitVec.or_zero, BitVec.extractLsb'_toNat, BitVec.toNat_ofNat]
  omega

/-! ## The frame builder -/

theorem isFrame_of_length (b0 c : Byte) {b1 : Byte} {p : List Byte} (h : lenOfByte1 b1 = p.length) :
    isFrame (b0 :: b1 :: p ++ [c]) = true := by
  simp [isFrame, h]

theorem payloadOf_frame (b0 b1 c : Byte) (p : List Byte) : payloadOf (b0 :: b1 :: p ++ [c]) = p := by
  simp [payloadOf]

section build

variable {cfg : Config} {h : HeaderReq} {p : List Byte}

theorem buildFrame_of_error {e : EncErr} (he : encodeHeader (h.withLen p.length) = .error e) :
    buildFrame cfg h p = .error e := by
  rw [buildFrame, he]

theorem buildFrame_of_ok {b0 b1 : Byte} (hok : encodeHeader (h.withLen p.length) = .ok (b0, b1)) :
    buildFrame cfg h p = .ok (b0 :: b1 :: p ++ [cfg.crc.crc8 (b0 :: b1 :: p)]) := by
  rw [buildFrame, hok]

theorem buildFrame_long (hlen : 31 < p.length) : buildFrame cfg h p = .error .lengthOutOfRange :=
  buildFrame_of_error (by rw [encodeHeader_eq, len_withLen, if_pos hlen])

theorem buildFrame_field (hlen : p.length ≤ 31) (hfield : 63 < h.low ∨ 7 < h.high) :
    buildFrame cfg h p = .error .fieldOutOfRange :=
  buildFrame_of_error (by
    rw [encodeHeader_eq, len_withLen, low_withLen, high_withLen, if_neg hlen.not_gt, if_pos hfield])

theorem buildFrame_fits (hlen : p.length ≤ 31) (hlow : h.low ≤ 63) (hhigh : h.high ≤ 7) :
    buildFrame cfg h p =
      .ok (h.byte0 :: packByte1 p.length h.high :: p ++ [cfg.crc.crc8 (h.byte0 :: packByte1 p.length h.high :: p)]) :=
  buildFrame_of_ok (by
    rw [encodeHeader_eq, len_withLen, low_withLen, high_withLen, byte0_withLen, if_neg hlen.not_gt,
      if_neg (by omega)])

/-- R146: when a frame is built, the encoder gave the header that begins it, with the payload's length in byte1. -/
theorem buildFrame_ok {fr : List Byte} (hfr : buildFrame cfg h p = .ok fr) :
    ∃ b0 b1, encodeHeader (h.withLen p.length) = .ok (b0, b1) ∧ lenOfByte1 b1 = p.length ∧
      fr = b0 :: b1 :: p ++ [cfg.crc.crc8 (b0 :: b1 :: p)] := by
  have henc := encodeHeader_eq (h.withLen p.length)
  rw [len_withLen] at henc
  split_ifs at henc with hlen
  · rw [buildFrame_of_error henc] at hfr
    cases hfr
  · rw [buildFrame_of_error henc] at hfr
    cases hfr
  · rw [buildFrame_of_ok henc] at hfr
    cases hfr
    exact ⟨_, _, henc, lenOfByte1_packByte1 (Nat.le_of_not_lt hlen) _, rfl⟩

end build

/-- Settles O14: the builder answers as the encoder of its header does, and appends the CRC that `validate` compares. -/
theorem builtFramesValidate : Obligations.BuiltFramesValidate := by
  intro cfg p
  refine ⟨fun h fr hfr => ?_, fun a r len c h hmem => ?_⟩
  · obtain ⟨b0, b1, henc, hlen, rfl⟩ := buildFrame_ok hfr
    refine ⟨b0, b1, henc, rfl, ?_, isFrame_of_length b0 _ hlen, payloadOf_frame b0 b1 _ p⟩
    rw [Crc.validate_append_byte]
    exact beq_self_eq_true _
  · have hfields : h.low = a ∧ h.high = c := by
      obtain rfl | rfl : h = .t1 a r len c ∨ h = .t2 a r len c := by simpa using hmem
      · exact ⟨rfl, rfl⟩
      · exact ⟨rfl, rfl⟩
    obtain ⟨rfl, rfl⟩ := hfields
    exact ⟨buildFrame_long, buildFrame_field, fun hlen hlow hhigh => ⟨_, buildFrame_fits hlen hlow hhigh⟩⟩

end Sys2Proof.Machine

/-! # The header encoder and decoder with their ports (41_header.md R130 to R141) -/

namespace Sys2Proof.Machine

/-! ## Packing the fields and reading them back (R130, R136, R137) -/

section packing

variable (high : BitVec 3) (len : BitVec 5) (r t : BitVec 1) (low : BitVec 6)

theorem packByte0_toNat : packByte0 low.toNat t.toNat r = r ++ t ++ low := by
  refine BitVec.eq_of_getLsbD_eq fun k hk => ?_
  simp only [packByte0, BitVec.ofNat_toNat, BitVec.getLsbD_or, BitVec.getLsbD_shiftLeft, BitVec.getLsbD_setWidth,
    BitVec.getLsbD_append]
  interval_cases k <;> simp

theorem packByte1_toNat : packByte1 len.toNat high.toNat = high ++ len := by
  rw [BitVec.append_def, BitVec.shiftLeftZeroExtend_eq, BitVec.setWidth'_eq, packByte1, BitVec.ofNat_toNat,
    BitVec.ofNat_toNat, BitVec.or_comm]

theorem decodeHeader_append :
    decodeHeader (r ++ t ++ low) (high ++ len) =
      if t = 0#1 then .t1 { addr := low, r := r, len := len, cmd := high }
      else .t2 { cmd6 := low, r := r, len := len, dp1 := high } := by
  have hlow : (r ++ t ++ low).extractLsb' 0 6 = low := BitVec.extractLsb'_append_eq_right
  have ht : (r ++ t ++ low).extractLsb' 6 1 = t := extractLsb'_middle_append_append r t low
  have hr : (r ++ t ++ low).extractLsb' 7 1 = r := extractLsb'_high_append_append r t low
  have hlen : (high ++ len).extractLsb' 0 5 = len := BitVec.extractLsb'_append_eq_right
  have hhigh : (high ++ len).extractLsb' 5 3 = high := BitVec.extractLsb'_append_eq_left
  rw [decodeHeader, hlow, ht, hr, hlen, hhigh]

end packing

/-- R58: two bytes are determined by their header word. -/
theorem headerBytes_headerWordOf (b0 b1 : Byte) :
    headerByte0 (headerWordOf b0 b1) = b0 ∧ headerByte1 (headerWordOf b0 b1) = b1 :=
  ⟨BitVec.extractLsb'_append_eq_right, BitVec.extractLsb'_append_eq_left⟩

/-- R130: no bit of the two bytes is dropped, since their word is the word of the decoded header. -/
theorem decodeHeader_inj {b0 b1 c0 c1 : Byte} (h : decodeHeader b0 b1 = decodeHeader c0 c1) : b0 = c0 ∧ b1 = c1 := by
  have hword : headerWordOf b0 b1 = headerWordOf c0 c1 := by
    rw [← word_headerOfWord (headerWordOf b0 b1), headerOfWord_headerWordOf, h, ← headerOfWord_headerWordOf,
      word_headerOfWord]
  obtain ⟨hb0, hb1⟩ := headerBytes_headerWordOf b0 b1
  obtain ⟨hc0, hc1⟩ := headerBytes_headerWordOf c0 c1
  rw [hword] at hb0 hb1
  exact ⟨hb0.symm.trans hc0, hb1.symm.trans hc1⟩

/-! ## The three answers of the encoder (R138, R139) -/

section answers

variable {h : HeaderReq}

theorem encodeHeader_long (hlen : 31 < h.len) : encodeHeader h = .error .lengthOutOfRange := by
  rw [encodeHeader_eq, if_pos hlen]

theorem encodeHeader_field (hlen : h.len ≤ 31) (hfield : 63 < h.low ∨ 7 < h.high) :
    encodeHeader h = .error .fieldOutOfRange := by
  rw [encodeHeader_eq, if_neg hlen.not_gt, if_pos hfield]

theorem encodeHeader_fits (hlen : h.len ≤ 31) (hlow : h.low ≤ 63) (hhigh : h.high ≤ 7) :
    encodeHeader h = .ok (h.byte0, packByte1 h.len h.high) := by
  rw [encodeHeader_eq, if_neg hlen.not_gt, if_neg (by omega)]

/-- R139: an encoding that succeeds cuts no field off. -/
theorem fits_of_encodeHeader_ok {bytes : Byte × Byte} (hok : encodeHeader h = .ok bytes) :
    h.len ≤ 31 ∧ h.low ≤ 63 ∧ h.high ≤ 7 := by
  rw [encodeHeader_eq] at hok
  split_ifs at hok
  omega

end answers

/-! ## Headers as requests (R140, R141) -/

/-- A request whose fields fit is the request of a header. -/
theorem exists_toReq_eq {h : HeaderReq} (hlen : h.len ≤ 31) (hlow : h.low ≤ 63) (hhigh : h.high ≤ 7) :
    ∃ hd : Header, hd.toReq = h := by
  cases h with
  | t1 addr r len cmd =>
    exact ⟨.t1 { addr := .ofNatLT addr (Nat.lt_succ_of_le hlow), r := r, len := .ofNatLT len (Nat.lt_succ_of_le hlen),
                 cmd := .ofNatLT cmd (Nat.lt_succ_of_le hhigh) }, rfl⟩
  | t2 cmd6 r len dp1 =>
    exact ⟨.t2 { cmd6 := .ofNatLT cmd6 (Nat.lt_succ_of_le hlow), r := r, len := .ofNatLT len (Nat.lt_succ_of_le hlen),
                 dp1 := .ofNatLT dp1 (Nat.lt_succ_of_le hhigh) }, rfl⟩

theorem toReq_fits (hd : Header) : hd.toReq.len ≤ 31 ∧ hd.toReq.low ≤ 63 ∧ hd.toReq.high ≤ 7 := by
  cases hd with
  | t1 h => exact ⟨Nat.le_of_lt_succ h.len.isLt, Nat.le_of_lt_succ h.addr.isLt, Nat.le_of_lt_succ h.cmd.isLt⟩
  | t2 h => exact ⟨Nat.le_of_lt_succ h.len.isLt, Nat.le_of_lt_succ h.cmd6.isLt, Nat.le_of_lt_succ h.dp1.isLt⟩

theorem decodeHeader_toReq_bytes (hd : Header) :
    decodeHeader hd.toReq.byte0 (packByte1 hd.toReq.len hd.toReq.high) = hd := by
  cases hd with
  | t1 h =>
    have hbyte0 : (Header.t1 h).toReq.byte0 = h.r ++ 0#1 ++ h.addr := packByte0_toNat h.r 0#1 h.addr
    have hbyte1 : packByte1 h.len.toNat h.cmd.toNat = h.cmd ++ h.len := packByte1_toNat h.cmd h.len
    exact hbyte0 ▸ hbyte1 ▸ decodeHeader_append h.cmd h.len h.r 0#1 h.addr
  | t2 h =>
    have hbyte0 : (Header.t2 h).toReq.byte0 = h.r ++ 1#1 ++ h.cmd6 := packByte0_toNat h.r 1#1 h.cmd6
    have hbyte1 : packByte1 h.len.toNat h.dp1.toNat = h.dp1 ++ h.len := packByte1_toNat h.dp1 h.len
    exact hbyte0 ▸ hbyte1 ▸ decodeHeader_append h.dp1 h.len h.r 1#1 h.cmd6

/-- R140: every header encodes, to two bytes that decode to it. -/
theorem encodeHeader_toReq (hd : Header) :
    ∃ b0 b1, encodeHeader hd.toReq = .ok (b0, b1) ∧ decodeHeader b0 b1 = hd := by
  obtain ⟨hlen, hlow, hhigh⟩ := toReq_fits hd
  exact ⟨_, _, encodeHeader_fits hlen hlow hhigh, decodeHeader_toReq_bytes hd⟩

/-- R141: re-encoding a decoded header gives bytes that decode alike, so the same bytes. -/
theorem encodeHeader_toReq_decodeHeader (b0 b1 : Byte) : encodeHeader (decodeHeader b0 b1).toReq = .ok (b0, b1) := by
  obtain ⟨c0, c1, henc, hdec⟩ := encodeHeader_toReq (decodeHeader b0 b1)
  obtain ⟨rfl, rfl⟩ := decodeHeader_inj hdec
  exact henc

/-- R140: a request that encodes is the request of a header, which its two bytes decode to. -/
theorem toReq_decodeHeader_of_encodeHeader {h : HeaderReq} {b0 b1 : Byte} (hok : encodeHeader h = .ok (b0, b1)) :
    (decodeHeader b0 b1).toReq = h := by
  obtain ⟨hlen, hlow, hhigh⟩ := fits_of_encodeHeader_ok hok
  obtain ⟨hd, rfl⟩ := exists_toReq_eq hlen hlow hhigh
  obtain ⟨c0, c1, henc, hdec⟩ := encodeHeader_toReq hd
  rw [hok] at henc
  cases henc
  rw [hdec]

theorem decodeHeader_bijective : Function.Bijective fun p : Byte × Byte => decodeHeader p.1 p.2 := by
  refine ⟨fun p q h => ?_, fun hd => ?_⟩
  · obtain ⟨h0, h1⟩ := decodeHeader_inj h
    exact Prod.ext h0 h1
  · obtain ⟨b0, b1, -, hdec⟩ := encodeHeader_toReq hd
    exact ⟨(b0, b1), hdec⟩

/-! ## The ports (R100, R101) -/

/-- R101: the port's request has the three fields of its inputs, whatever its type. -/
theorem heRequest_fields (t r : BitVec 1) (len f0 f1 : Byte) :
    (heRequest t r len f0 f1).len = len.toNat ∧ (heRequest t r len f0 f1).low = f0.toNat ∧
      (heRequest t r len f0 f1).high = f1.toNat := by
  unfold heRequest
  split <;> exact ⟨rfl, rfl, rfl⟩

section encoderPort

variable {t r : BitVec 1} {len f0 f1 : Byte}

theorem hePort_of_error {e : EncErr} (he : encodeHeader (heRequest t r len f0 f1) = .error e) :
    hePort t r len f0 f1 = { heOut := 0#16, heErr := e.code } := by
  rw [hePort, he]

theorem hePort_of_ok {b0 b1 : Byte} (hok : encodeHeader (heRequest t r len f0 f1) = .ok (b0, b1)) :
    hePort t r len f0 f1 = { heOut := headerWordOf b0 b1, heErr := 0#2 } := by
  rw [hePort, hok]

end encoderPort

section decoderPort

variable {hw : HeaderWord}

theorem hdPort_of_type1 (ht : fieldT hw = 0#1) :
    hdPort hw = { hdT := 0#1, hdR := fieldR hw, hdLen := fieldLen hw, hdAddr := fieldLow hw, hdCmd1 := fieldHigh hw,
                  hdCmd2 := 0#6, hdDp1 := 0#3 } := by
  simp [hdPort, ht]

theorem hdPort_of_type2 (ht : fieldT hw = 1#1) :
    hdPort hw = { hdT := 1#1, hdR := fieldR hw, hdLen := fieldLen hw, hdAddr := 0#6, hdCmd1 := 0#3,
                  hdCmd2 := fieldLow hw, hdDp1 := fieldHigh hw } := by
  simp [hdPort, ht]

end decoderPort

/-! ## The obligations -/

/-- Settles O5: the request is that of a header, and every header is decoded from its encoding. -/
theorem headerEncodeThenDecode : Obligations.HeaderEncodeThenDecode := fun _ _ _ =>
  toReq_decodeHeader_of_encodeHeader

/-- Settles O6: every header encodes, and the decoder is injective. -/
theorem headerDecodeThenEncode : Obligations.HeaderDecodeThenEncode :=
  ⟨encodeHeader_toReq_decodeHeader, decodeHeader_bijective⟩

/-- Settles O7: the three answers of the encoder, for a request of either type and for the port's request. -/
theorem encoderChecksTheLengthFirst : Obligations.EncoderChecksTheLengthFirst := by
  refine ⟨fun a r len c => ⟨fun hlen => ?_, fun hlen hfield => ?_⟩, fun t r len f0 f1 => ?_⟩
  · exact ⟨encodeHeader_long hlen, encodeHeader_long hlen⟩
  · exact ⟨encodeHeader_field hlen hfield, encodeHeader_field hlen hfield⟩
  · obtain ⟨hl, h0, h1⟩ := heRequest_fields t r len f0 f1
    rw [← hl, ← h0, ← h1]
    refine ⟨fun hlen => ?_, fun hlen hfield => ?_, fun hlen hlow hhigh => ?_⟩
    · exact hePort_of_error (encodeHeader_long hlen)
    · exact hePort_of_error (encodeHeader_field hlen hfield)
    · rw [hePort_of_ok (encodeHeader_fits hlen hlow hhigh)]

/-- Settles O8: T selects the type of the decoded header and the field group that the port drives. -/
theorem decoderPortDrivesOneFieldGroup : Obligations.DecoderPortDrivesOneFieldGroup := by
  intro b0 b1
  rw [← headerOfWord_headerWordOf]
  obtain ⟨ht, hhd⟩ | ⟨ht, hhd⟩ := headerOfWord_cases (headerWordOf b0 b1)
  · rw [hhd]
    exact hdPort_of_type1 ht
  · rw [hhd]
    exact hdPort_of_type2 ht

end Sys2Proof.Machine

/-! # A frame received byte by byte (42_assembler.md R161 to R169, 41_header.md R147) -/

namespace Sys2Proof.Machine

/-! ## Complete and partial frames -/

theorem isFrame_iff (bs : List Byte) :
    isFrame bs = true ↔ 3 ≤ bs.length ∧ bs.length = lenOfByte1 (bs.getD 1 0#8) + 3 := by
  simp [isFrame]

theorem partialFrame_iff (bs : List Byte) :
    partialFrame bs = true ↔ 1 ≤ bs.length ∧ (2 ≤ bs.length → bs.length ≤ lenOfByte1 (bs.getD 1 0#8) + 2) := by
  simp only [partialFrame, Bool.and_eq_true, Bool.or_eq_true, decide_eq_true_eq]
  omega

/-- R165, R229: the bytes before the last of a frame are no complete frame. -/
theorem partialFrame_of_isFrame {bs : List Byte} {b : Byte} (h : isFrame (bs ++ [b]) = true) :
    partialFrame bs = true := by
  obtain ⟨h3, hlen⟩ := (isFrame_iff _).mp h
  rw [List.length_append, List.length_singleton] at h3 hlen
  rw [List.getD_append _ _ _ _ (by omega)] at hlen
  exact (partialFrame_iff bs).mpr ⟨by omega, fun _ => by omega⟩

/-- R165: no complete frame stands at the front of a partial one. -/
theorem isFrame_eq_false_of_partialFrame {as bs : List Byte} (h : partialFrame (as ++ bs) = true) :
    isFrame as = false := by
  refine Bool.eq_false_iff.mpr fun hframe => ?_
  obtain ⟨h3, hlen⟩ := (isFrame_iff as).mp hframe
  obtain ⟨-, hbound⟩ := (partialFrame_iff _).mp h
  rw [List.length_append, List.getD_append _ _ _ _ (by omega)] at hbound
  have := hbound (by omega)
  omega

/-- R164, R165: a byte completes the frame held exactly when it makes up a frame with the bytes held. -/
theorem completes_eq_isFrame (g : Regs) (b : Byte) : completes g b = isFrame (heldBytes g ++ [b]) := by
  rw [Bool.eq_iff_iff, isFrame_iff, completes, Bool.and_eq_true, decide_eq_true_eq, decide_eq_true_eq]
  have hlen : (heldBytes g ++ [b]).length = g.cnt + 1 := by simp [heldBytes]
  rw [hlen]
  by_cases h2 : 2 ≤ g.cnt
  · have hbyte1 : (heldBytes g ++ [b]).getD 1 0#8 = g.buf.read 1 := by
      rw [List.getD_append _ _ _ _ (by simp [heldBytes]; omega), heldBytes, Memory.bytes_getD (by omega)]
    rw [hbyte1, declaredLen, if_neg (by omega)]
    omega
  · omega

/-! ## The inputs of a frame -/

theorem presented_append (is js : List Input) : presented (is ++ js) = presented is ++ presented js := by
  simp [presented]

theorem presented_singleton (i : Input) : presented [i] = if i.inValid then [i.inByte] else [] := by
  unfold presented
  cases h : i.inValid <;> simp [h]

theorem presented_of_valid {is : List Input} (h : ∀ i ∈ is, i.inValid = true) :
    presented is = is.map fun i => i.inByte := by
  rw [presented, List.filter_eq_self.mpr h]

theorem exists_first_mid_last {α : Type} {l : List α} (h : 2 ≤ l.length) : ∃ a m b, l = a :: m ++ [b] := by
  obtain _ | ⟨a, l⟩ := l
  · cases h
  obtain rfl | ⟨m, b, rfl⟩ := List.eq_nil_or_concat' l
  · simp at h
  exact ⟨a, m, b, rfl⟩

theorem tickCount_cons (i : Input) (is : List Input) : tickCount (i :: is) = i.tick.toNat + tickCount is := by
  cases h : i.tick <;> simp [tickCount, h, Nat.add_comm]

theorem noReset_cons (i : Input) (is : List Input) : noReset (i :: is) = true ↔ i.rst = false ∧ noReset is = true := by
  simp [noReset]

/-! ## The registers while a frame is received -/

/-- R22 to R25: good registers in RECV that hold `held`, with `tmr` ticks counted. -/
structure Receiving (cfg : Config) (held : List Byte) (tmr : Nat) (g : Regs) : Prop where
  inv : g.inv cfg = true
  st : g.st = .recv
  held : heldBytes g = held
  tmr : g.tmr = tmr

theorem firstByteRegs_receiving (cfg : Config) (b : Byte) : Receiving cfg [b] 0 (firstByteRegs cfg b) :=
  ⟨firstByteRegs_inv cfg b, rfl, Memory.bytes_write_end Memory.wf_clear 0 b, rfl⟩

theorem timerNext_of_le {cfg : Config} {tmr : Nat} {tick : Bool} (h : tmr + tick.toNat ≤ cfg.timeoutTicks) :
    timerNext cfg tmr tick = tmr + tick.toNat := by
  cases tick
  · rfl
  · exact min_eq_left (by rw [Bool.toNat_true] at h; omega)

theorem expiry_of_le {cfg : Config} {tmr : Nat} (h : tmr ≤ cfg.timeoutTicks) : expiry cfg tmr = .recv :=
  if_neg h.not_gt

section receiving

variable {cfg : Config} {held : List Byte} {tmr : Nat} {g : Regs} {i : Input}

/-- R166, R168: a byte that does not complete the frame is held after it. -/
theorem Receiving.append (hg : Receiving cfg held tmr g) (hc : completes g i.inByte = false)
    (htick : tmr + i.tick.toNat ≤ cfg.timeoutTicks) :
    Receiving cfg (held ++ [i.inByte]) (tmr + i.tick.toNat) (appendRegs cfg g i) := by
  obtain ⟨hinv, hst, rfl, rfl⟩ := hg
  have htmr := timerNext_of_le htick
  refine ⟨appendRegs_inv hinv hst hc, ?_, ?_, htmr⟩
  · rw [appendRegs_st, htmr, expiry_of_le htick]
  · exact Memory.bytes_write_end (Regs.inv_buf hinv).1 g.cnt i.inByte

/-- R169, R168: without a byte only the timer moves. -/
theorem Receiving.wait (hg : Receiving cfg held tmr g) (htick : tmr + i.tick.toNat ≤ cfg.timeoutTicks) :
    Receiving cfg held (tmr + i.tick.toNat) (recvWaitRegs cfg g i) := by
  obtain ⟨hinv, hst, rfl, rfl⟩ := hg
  have htmr := timerNext_of_le htick
  refine ⟨recvWaitRegs_inv i hinv hst, ?_, rfl, htmr⟩
  rw [recvWaitRegs_st, htmr, expiry_of_le htick]

end receiving

/-! ## The steps before the last byte -/

section steps

variable {s : State} {held : List Byte} {tmr : Nat}

/-- R161: in IDLE a byte begins a frame. -/
theorem step_of_idle_byte (hwf : s.cfg.wf = true) (hst : s.regs.st = .idle) (hrst : s.input.rst = false)
    (hvalid : s.input.inValid = true) : step s = .next (s.finish (firstByteRegs s.cfg s.input.inByte) none) := by
  have ht : s.transition = .idleByte := by simp [State.transition, transitionOf, hrst, hst, hvalid]
  simp [step, hwf, ht, idleByteStep]

/-- R166: in RECV a byte that does not complete the frame is appended. -/
theorem step_of_recv_byte (hwf : s.cfg.wf = true) (hg : Receiving s.cfg held tmr s.regs) (hrst : s.input.rst = false)
    (hvalid : s.input.inValid = true) (hc : completes s.regs s.input.inByte = false) :
    step s = .next (s.finish (appendRegs s.cfg s.regs s.input) none) := by
  have ht : s.transition = .append := by simp [State.transition, transitionOf, hrst, hg.st, hvalid, hc]
  have hcnt := ((Regs.inv_recv_iff hg.st).mp hg.inv).1.cnt_lt_bufBytes hc
  simp [step, hwf, ht, appendStep, hcnt]

/-- R169: in RECV, no byte. -/
theorem step_of_recv_gap (hwf : s.cfg.wf = true) (hst : s.regs.st = .recv) (hrst : s.input.rst = false)
    (hvalid : s.input.inValid = false) : step s = .next (s.finish (recvWaitRegs s.cfg s.regs s.input) none) := by
  have ht : s.transition = .recvWait := by simp [State.transition, transitionOf, hrst, hst, hvalid]
  simp [step, hwf, ht, recvWaitStep]

/-- R166, R169: a step of RECV that neither completes nor expires the frame stays in RECV, with no event. -/
theorem step_receiving (hwf : s.cfg.wf = true) (hg : Receiving s.cfg held tmr s.regs) (hrst : s.input.rst = false)
    (hopen : isFrame (held ++ presented [s.input]) = false) (htick : tmr + s.input.tick.toNat ≤ s.cfg.timeoutTicks) :
    ∃ g, step s = .next (s.finish g none) ∧
      Receiving s.cfg (held ++ presented [s.input]) (tmr + s.input.tick.toNat) g := by
  rw [presented_singleton] at hopen ⊢
  cases hvalid : s.input.inValid with
  | true =>
    rw [hvalid, if_pos rfl] at hopen
    have hc : completes s.regs s.input.inByte = false := by rw [completes_eq_isFrame, hg.held, hopen]
    exact ⟨_, step_of_recv_byte hwf hg hrst hvalid hc, hg.append hc htick⟩
  | false =>
    rw [if_neg Bool.false_ne_true, List.append_nil]
    exact ⟨_, step_of_recv_gap hwf hg.st hrst hvalid, hg.wait htick⟩

end steps

/-! ## Runs without an event -/

/-- R286: `n` steps lead from `s` to `t` and emit nothing. -/
structure SilentRun (n : Nat) (s t : State) : Prop where
  cfg : t.cfg = s.cfg
  inputs : t.inputs = s.inputs.drop n
  stepNo : t.stepNo = s.stepNo + n
  run : ∀ k, runTrace (n + k) s = runTrace k t

theorem SilentRun.refl (s : State) : SilentRun 0 s s :=
  ⟨rfl, rfl, rfl, fun k => by rw [Nat.zero_add]⟩

theorem SilentRun.cons {n : Nat} {s t : State} {g : Regs} (hstep : step s = .next (s.finish g none))
    (h : SilentRun n (s.finish g none) t) : SilentRun (n + 1) s t where
  cfg := h.cfg
  inputs := by rw [h.inputs, finish_inputs, List.drop_tail]
  stepNo := by rw [h.stepNo, finish_stepNo, Nat.add_assoc, Nat.add_comm 1]
  run k := by
    rw [Nat.add_right_comm, ← h.run, runTrace, hstep]
    cases hrun : runTrace (n + k) (s.finish g none) <;> simp [hrun, withEvent]

/-- R286: a silent run and one further step with an event. -/
theorem SilentRun.runTrace_succ {n : Nat} {s t u : State} {ev : Event} (h : SilentRun n s t) (hstep : step t = .next u)
    (hev : u.event = some ev) : runTrace (n + 1) s = .next (u, [(s.stepNo + n, ev)]) := by
  rw [h.run, ← h.stepNo]
  simp [runTrace, hstep, hev, withEvent]

/-- R166, R169: while the bytes held are no complete frame and the ticks do not pass the threshold, a run from RECV stays
in RECV, emits nothing and holds every byte presented. -/
theorem silentRun_receiving {s : State} {held : List Byte} {tmr : Nat} {mid rest : List Input} (hwf : s.cfg.wf = true)
    (hg : Receiving s.cfg held tmr s.regs) (hin : s.inputs = mid ++ rest) (hrst : noReset mid = true)
    (hopen : partialFrame (held ++ presented mid) = true) (htick : tmr + tickCount mid ≤ s.cfg.timeoutTicks) :
    ∃ t, SilentRun mid.length s t ∧ Receiving s.cfg (held ++ presented mid) (tmr + tickCount mid) t.regs := by
  induction mid generalizing s held tmr with
  | nil => exact ⟨s, .refl s, by simpa [presented, tickCount] using hg⟩
  | cons i mid ih =>
    obtain rfl : s.input = i := input_of_cons s hin
    have hpres : held ++ presented (s.input :: mid) = held ++ presented [s.input] ++ presented mid := by
      rw [List.append_assoc, ← presented_append, List.singleton_append]
    obtain ⟨hrst, hrstmid⟩ := (noReset_cons _ _).mp hrst
    rw [tickCount_cons, ← Nat.add_assoc] at htick ⊢
    rw [hpres] at hopen ⊢
    obtain ⟨g, hstep, hg'⟩ := step_receiving hwf hg hrst (isFrame_eq_false_of_partialFrame hopen)
      ((Nat.le_add_right _ _).trans htick)
    obtain ⟨t, hrun, ht⟩ := ih (s := s.finish g none) hwf hg' (by rw [finish_inputs, hin]; rfl) hrstmid hopen htick
    exact ⟨t, hrun.cons hstep, ht⟩

/-- R161, R166, R169: a run from IDLE over the first byte of a frame and the inputs before its last byte. -/
theorem silentRun_of_idle {s : State} {first : Input} {mid rest : List Input} (hwf : s.cfg.wf = true)
    (hst : s.regs.st = .idle) (hin : s.inputs = first :: mid ++ rest) (hrst : noReset (first :: mid) = true)
    (hvalid : first.inValid = true) (hopen : partialFrame (presented (first :: mid)) = true)
    (htick : tickCount mid ≤ s.cfg.timeoutTicks) :
    ∃ t, SilentRun (mid.length + 1) s t ∧ Receiving s.cfg (presented (first :: mid)) (tickCount mid) t.regs := by
  obtain rfl : s.input = first := input_of_cons s hin
  have hpres : presented (s.input :: mid) = [s.input.inByte] ++ presented mid := by
    rw [← List.singleton_append, presented_append, presented_singleton, if_pos hvalid]
  obtain ⟨hrst, hrstmid⟩ := (noReset_cons _ _).mp hrst
  have hstep := step_of_idle_byte hwf hst hrst hvalid
  rw [hpres] at hopen ⊢
  rw [← Nat.zero_add (tickCount mid)] at htick ⊢
  obtain ⟨t, hrun, ht⟩ := silentRun_receiving (s := s.finish (firstByteRegs s.cfg s.input.inByte) none) hwf
    (firstByteRegs_receiving s.cfg s.input.inByte) (by rw [finish_inputs, hin]; rfl) hrstmid hopen htick
  exact ⟨t, hrun.cons hstep, ht⟩

/-! ## The completing step of a frame with a valid CRC -/

/-- R200: the event of `t`, if there is one, is not CRC_MISMATCH. -/
def ReportsNoMismatch (t : State) : Prop := ∀ a raw, t.event ≠ some (.err .crcMismatch a raw)

theorem unknownCommand_reportsNoMismatch (addr : Option (BitVec 6)) (s : State) :
    ReportsNoMismatch (unknownCommand addr s) := by
  simp [ReportsNoMismatch, unknownCommand_eq]

theorem dispatchBroadcast_reportsNoMismatch (h : Hdr2) (s : State) : ReportsNoMismatch (dispatchBroadcast h s) := by
  simp [ReportsNoMismatch, dispatchBroadcast_eq]

theorem deliver_moduleError_reportsNoMismatch (h : Hdr1) (p raw : List Byte) (s : State) :
    ReportsNoMismatch (deliver (.moduleError h p raw) s) := by
  simp [ReportsNoMismatch, deliver_eq]

theorem dispatchUnicast_reportsNoMismatch (h : Hdr1) (s : State) : ReportsNoMismatch (dispatchUnicast h s) := by
  obtain ⟨-, heq⟩ | ⟨_, -, -, heq⟩ | ⟨_, _, _, -, -, -, heq⟩ | ⟨_, _, -, -, heq⟩ := dispatchUnicast_cases h s
  · exact heq ▸ unknownCommand_reportsNoMismatch _ s
  · exact heq ▸ unknownCommand_reportsNoMismatch _ s
  · simp [ReportsNoMismatch, heq]
  · simp [ReportsNoMismatch, heq]

/-- R200: every instruction checks the CRC first, and reports no mismatch when it is right. -/
theorem exec_eq_ifCrcOk (i : Instr) (s : State) :
    ∃ valid, exec i s = .next (ifCrcOk s valid) ∧ ReportsNoMismatch valid := by
  cases i
  case data | cfg | data2 | data3 | data4 | data5 | data6 => exact ⟨_, rfl, dispatchUnicast_reportsNoMismatch _ s⟩
  case errResponse => exact ⟨_, rfl, deliver_moduleError_reportsNoMismatch _ _ _ s⟩
  case undef0 | undef1 | gotoGateProtocol => exact ⟨_, rfl, dispatchBroadcast_reportsNoMismatch _ s⟩
  case errRequest | broadcastReserved => exact ⟨_, rfl, unknownCommand_reportsNoMismatch _ s⟩

theorem reportsNoMismatch_of_exec {i : Instr} {s t : State} (hok : s.crcOk = true) (h : exec i s = .next t) :
    ReportsNoMismatch t := by
  obtain ⟨valid, hexec, hvalid⟩ := exec_eq_ifCrcOk i s
  rw [hexec, ifCrcOk, if_pos hok] at h
  cases h
  exact hvalid

/-- R167, R117: the byte that makes up a frame with a valid CRC completes it, and its event is no CRC_MISMATCH. -/
theorem step_completing {s : State} {held : List Byte} {tmr : Nat} (hwf : s.cfg.wf = true)
    (hg : Receiving s.cfg held tmr s.regs) (hrst : s.input.rst = false) (hvalid : s.input.inValid = true)
    (hframe : isFrame (held ++ [s.input.inByte]) = true)
    (hcrc : s.cfg.crc.validate (held ++ [s.input.inByte]) = true) :
    ∃ ev : Event, step s = .next (s.finish (idleRegs s.cfg) (some ev)) ∧ ev.raw = held ++ [s.input.inByte] ∧
      ∀ a raw, ev ≠ .err .crcMismatch a raw := by
  obtain ⟨hinv, hst, rfl, -⟩ := hg
  have hc : completes s.regs s.input.inByte = true := (completes_eq_isFrame _ _).trans hframe
  have ht : s.transition = .complete := by simp [State.transition, transitionOf, hrst, hst, hvalid, hc]
  obtain ⟨-, -, hok⟩ := crcCheckValidatesTheFrame s ((State.inv_iff s).mpr ⟨hwf, hinv⟩) ht
  obtain ⟨t, hexec, ev, hraw, rfl⟩ := exec_endsFrame s.fetch s
  have hno := reportsNoMismatch_of_exec (hok.trans hcrc) hexec
  exact ⟨ev, (step_of_completes hwf hst hrst hvalid hc).trans hexec, hraw, fun a raw h => hno a raw (congrArg some h)⟩

/-- R161 to R167: a frame with a valid CRC whose first byte arrives in IDLE and whose last byte arrives in time completes
in the step of that byte. -/
theorem runTrace_validFrame {s : State} {first last : Input} {mid rest : List Input} (hinv : s.inv = true)
    (hst : s.regs.st = .idle) (hin : s.inputs = first :: mid ++ last :: rest) (hrst : noReset (first :: mid) = true)
    (hfirst : first.inValid = true) (hlastrst : last.rst = false) (hlast : last.inValid = true)
    (hframe : isFrame (presented (first :: mid) ++ [last.inByte]) = true)
    (hcrc : s.cfg.crc.validate (presented (first :: mid) ++ [last.inByte]) = true)
    (htick : tickCount mid ≤ s.cfg.timeoutTicks) :
    ∃ (t : State) (ev : Event), runTrace (mid.length + 2) s = .next (t, [(s.stepNo + (mid.length + 1), ev)]) ∧
      t.regs = idleRegs s.cfg ∧ t.inputs = rest ∧ ev.raw = presented (first :: mid) ++ [last.inByte] ∧
      ∀ a raw, ev ≠ .err .crcMismatch a raw := by
  obtain ⟨hwf, -⟩ := (State.inv_iff s).mp hinv
  obtain ⟨u, hrun, hu⟩ := silentRun_of_idle hwf hst hin hrst hfirst (partialFrame_of_isFrame hframe) htick
  have hinputs : u.inputs = last :: rest := by rw [hrun.inputs, hin]; exact List.drop_left
  obtain rfl : u.input = last := input_of_cons u hinputs
  rw [← hrun.cfg] at hwf hu hcrc ⊢
  obtain ⟨ev, hstep, hraw, hno⟩ := step_completing hwf hu hlastrst hlast hframe hcrc
  refine ⟨_, ev, hrun.runTrace_succ hstep rfl, rfl, ?_, hraw, hno⟩
  rw [finish_inputs, hinputs, List.tail_cons]

/-! ## The obligation -/

/-- Settles O52: a built frame is a frame that validates (O14), so its inputs are a first one, a last one and those between. -/
theorem builtFrameCompletesWithValidCrc : Obligations.BuiltFrameCompletesWithValidCrc := by
  intro s h p fr ins rest hinv hst hbuild hin hbytes hbyte htick
  obtain ⟨-, -, -, -, hcrc, hframe, -⟩ := (builtFramesValidate s.cfg p).1 h fr hbuild
  obtain ⟨h3, -⟩ := (isFrame_iff fr).mp hframe
  subst hbytes
  rw [List.length_map] at h3
  obtain ⟨first, mid, last, rfl⟩ := exists_first_mid_last (by omega : 2 ≤ ins.length)
  obtain ⟨hfirstmid, hsingle⟩ := List.forall_mem_append.mp hbyte
  obtain ⟨hlastrst, hlast⟩ := hsingle last (List.mem_singleton_self last)
  have hpres : (first :: mid ++ [last]).map (fun i => i.inByte) = presented (first :: mid) ++ [last.inByte] := by
    rw [presented_of_valid fun i hi => (hfirstmid i hi).2, List.map_append, List.map_singleton]
  have hlen : ((first :: mid ++ [last]).map fun i => i.inByte).length = mid.length + 2 := by simp
  have hrst : noReset (first :: mid) = true := List.all_eq_true.mpr fun i hi => by simp [(hfirstmid i hi).1]
  rw [hlen, hpres]
  rw [hpres] at hframe hcrc
  rw [List.append_assoc] at hin
  exact runTrace_validFrame hinv hst hin hrst (hfirstmid first List.mem_cons_self).2 hlastrst hlast hframe hcrc
    (by simpa using htick)

end Sys2Proof.Machine

/-! # The frame assembler: the step as a whole and the frame in time (42_assembler.md R160 to R181) -/

namespace Sys2Proof.Machine

/-! ## The step, one transition at a time

Together with `step_of_idle_byte`, `step_of_recv_gap` and `step_of_completes`, which stand above. -/

/-- R165, R73: what `completes` tests, with the mask of byte1. -/
theorem completes_iff (g : Regs) (b : Byte) :
    completes g b = true ↔
      2 ≤ g.cnt ∧ g.cnt = (if g.cnt = 1 then (b &&& 0x1F#8).toNat else (g.buf.read 1 &&& 0x1F#8).toNat) + 2 := by
  simp only [completes, declaredLen, lenOfByte1_eq_and, Bool.and_eq_true, decide_eq_true_eq]

/-- R244: the event of a step from TMO. -/
def timeoutEvent (g : Regs) : Event := .err .timeout (addrOf (heldBytes g)) (heldBytes g)

section transitions

variable {s : State}

/-- R270. -/
theorem step_of_reset (hwf : s.cfg.wf = true) (hrst : s.input.rst = true) :
    step s = .next (s.finish (idleRegs s.cfg) none) := by
  have ht : s.transition = .reset := by simp [State.transition, transitionOf, hrst]
  simp [step, hwf, ht, resetStep]

/-- R162. -/
theorem step_of_idle_wait (hwf : s.cfg.wf = true) (hst : s.regs.st = .idle) (hrst : s.input.rst = false)
    (hvalid : s.input.inValid = false) : step s = .next (s.finish s.regs none) := by
  have ht : s.transition = .idleWait := by simp [State.transition, transitionOf, hrst, hst, hvalid]
  simp [step, hwf, ht, idleWaitStep]

/-- R166. -/
theorem step_of_append (hwf : s.cfg.wf = true) (hst : s.regs.st = .recv) (hrst : s.input.rst = false)
    (hvalid : s.input.inValid = true) (hc : completes s.regs s.input.inByte = false) (hcnt : s.regs.cnt < bufBytes) :
    step s = .next (s.finish (appendRegs s.cfg s.regs s.input) none) := by
  have ht : s.transition = .append := by simp [State.transition, transitionOf, hrst, hst, hvalid, hc]
  simp [step, hwf, ht, appendStep, hcnt]

/-- R170, R171: a step from TMO reports the bytes held, and its own byte, if there is one, starts a new frame. -/
theorem step_of_tmo (hwf : s.cfg.wf = true) (hst : s.regs.st = .tmo) (hrst : s.input.rst = false)
    (hcnt : s.regs.cnt ≤ bufBytes) :
    step s = .next (s.finish (if s.input.inValid then firstByteRegs s.cfg s.input.inByte else idleRegs s.cfg)
      (some (timeoutEvent s.regs))) := by
  have ht : s.transition = if s.input.inValid then .tmoByte else .tmoWait := by
    simp [State.transition, transitionOf, hrst, hst]
  cases hvalid : s.input.inValid with
  | true => simp [step, hwf, ht, hvalid, tmoByteStep, timeoutStep, hcnt, raiseError_eq, timeoutEvent]
  | false => simp [step, hwf, ht, hvalid, tmoWaitStep, timeoutStep, hcnt, raiseError_eq, timeoutEvent]

/-- R27: the bytes held in RECV or TMO fit into the buffer. -/
theorem cnt_le_of_inv {cfg : Config} {g : Regs} (h : g.inv cfg = true) (hst : g.st ≠ .idle) : g.cnt ≤ bufBytes :=
  (Regs.holdsPartial_of_inv h hst).cntLe

/-- R177: by the state, with the bounds of R27 where the buffer is read or written. -/
theorem exists_step_of_inv (hinv : s.inv = true) : ∃ t, step s = .next t := by
  obtain ⟨hwf, hregs⟩ := (State.inv_iff s).mp hinv
  cases hrst : s.input.rst with
  | true => exact ⟨_, step_of_reset hwf hrst⟩
  | false =>
    cases hst : s.regs.st with
    | idle =>
      cases hvalid : s.input.inValid with
      | true => exact ⟨_, step_of_idle_byte hwf hst hrst hvalid⟩
      | false => exact ⟨_, step_of_idle_wait hwf hst hrst hvalid⟩
    | tmo => exact ⟨_, step_of_tmo hwf hst hrst (cnt_le_of_inv hregs (by simp [hst]))⟩
    | recv =>
      cases hvalid : s.input.inValid with
      | false => exact ⟨_, step_of_recv_gap hwf hst hrst hvalid⟩
      | true =>
        cases hc : completes s.regs s.input.inByte with
        | true =>
          obtain ⟨t, hexec, -⟩ := exec_endsFrame s.fetch s
          exact ⟨t, (step_of_completes hwf hst hrst hvalid hc).trans hexec⟩
        | false =>
          have hp := Regs.holdsPartial_of_inv hregs (by simp [hst])
          exact ⟨_, step_of_append hwf hst hrst hvalid hc (hp.cnt_lt_bufBytes hc)⟩

end transitions

/-! ## The event of a completing step (R167, R200) -/

section multiplexer

variable {s : State}

/-- R251: every event of the multiplexer reports the raw bytes. -/
theorem dispatch_raw (cfg : Config) (raw : List Byte) (crcOk : Bool) (fc : BitVec 3) :
    (dispatch cfg raw crcOk fc).raw = raw := by
  fun_cases dispatch cfg raw crcOk fc <;> rfl

/-- R200: the branches of the multiplexer behind a right CRC, by the header decoded. -/
def headerEvent (cfg : Config) (raw : List Byte) (fc : BitVec 3) : Header → Event
  | .t2 h =>
    if h.cmd6 = 0x00#6 ∨ h.cmd6 = 0x01#6 ∨ h.cmd6 = 0x3F#6 then .okBroadcast h (payloadOf raw) raw
    else .err .unknownCommand none raw
  | .t1 h =>
    if h.cmd = 7#3 then
      (if h.r = 1#1 then .moduleError h (payloadOf raw) raw else .err .unknownCommand (some h.addr) raw)
    else match famOf fc with
      | none => .err .unknownCommand (some h.addr) raw
      | some f =>
        match cfg.lookup f h.cmd h.r with
        | none => .err .unknownCommand (some h.addr) raw
        | some (schema, size) =>
          if h.len ≠ size then .err .sizeMismatch (some h.addr) raw else .okUnicast h f schema (payloadOf raw) raw

theorem dispatch_of_crcOk (cfg : Config) (raw : List Byte) (fc : BitVec 3) :
    dispatch cfg raw true fc = headerEvent cfg raw fc (decodeHeader (raw.getD 0 0#8) (raw.getD 1 0#8)) := by
  rw [dispatch, if_neg (by decide)]
  cases decodeHeader (raw.getD 0 0#8) (raw.getD 1 0#8) <;> rfl

/-- R201: the header that the multiplexer decodes from the raw bytes is that of the instruction run. -/
theorem decodeHeader_raw (h2 : 2 ≤ s.regs.cnt) :
    decodeHeader (s.raw.getD 0 0#8) (s.raw.getD 1 0#8) = headerOf s.fetch := by
  have hread {k : Nat} (hk : k < s.regs.cnt) : s.raw.getD k 0#8 = s.regs.buf.read k := by
    rw [State.raw, heldBytes, List.getD_append _ _ _ _ (by simpa using hk), Memory.bytes_getD hk]
  rw [hread (by omega), hread (by omega), State.fetch, headerOf_decodeWord, heldHeader, headerOfWord_headerWordOf]

/-- R200: `t` is `s` finished in idleState with the event of a header behind a right CRC. -/
def EmitsFor (h : Header) (s t : State) : Prop :=
  t = s.finish (idleRegs s.cfg) (some (headerEvent s.cfg s.raw s.input.expFam h))

/-- R211 to R217. -/
theorem dispatchUnicast_emitsFor {h : Hdr1} (hcmd : h.cmd ≠ 7#3) : EmitsFor (.t1 h) s (dispatchUnicast h s) := by
  obtain ⟨hf, heq⟩ | ⟨f, hf, hl, heq⟩ | ⟨f, schema, size, hf, hl, hne, heq⟩ | ⟨f, schema, hf, hl, heq⟩ :=
    dispatchUnicast_cases h s
  · simp [EmitsFor, headerEvent, heq, hcmd, hf, unknownCommand_eq]
  · simp [EmitsFor, headerEvent, heq, hcmd, hf, hl, unknownCommand_eq]
  · simp [EmitsFor, headerEvent, heq, hcmd, hf, hl, hne]
  · simp [EmitsFor, headerEvent, heq, hcmd, hf, hl]

/-- R220 to R222. -/
theorem dispatchBroadcast_emitsFor {h : Hdr2} (hcmd : h.cmd6 = 0x00#6 ∨ h.cmd6 = 0x01#6 ∨ h.cmd6 = 0x3F#6) :
    EmitsFor (.t2 h) s (dispatchBroadcast h s) := by
  simp [EmitsFor, headerEvent, hcmd, dispatchBroadcast_eq]

/-- R223. -/
theorem unknownCommand_emitsFor_reserved {h : Hdr2} (hcmd : reservedCmd6 h.cmd6 = true) :
    EmitsFor (.t2 h) s (unknownCommand none s) := by
  obtain ⟨h0, h1, h3F⟩ := (reservedCmd6_iff h.cmd6).mp hcmd
  simp [EmitsFor, headerEvent, h0, h1, h3F, unknownCommand_eq]

/-- R200: every well-formed instruction tests the CRC and then goes where the multiplexer sends its header. The ERR rows
(R218, R219) fix their command and R, so their branch is found by computation. -/
theorem exec_eq_ifCrcOk_emitsFor {i : Instr} (hi : i.wf = true) (s : State) :
    ∃ valid, exec i s = .next (ifCrcOk s valid) ∧ EmitsFor (headerOf i) s valid := by
  cases i
  case data | cfg | data2 | data3 | data4 | data5 | data6 => exact ⟨_, rfl, dispatchUnicast_emitsFor (by simp)⟩
  case errResponse | errRequest => exact ⟨_, rfl, rfl⟩
  case undef0 | undef1 | gotoGateProtocol => exact ⟨_, rfl, dispatchBroadcast_emitsFor (by simp)⟩
  case broadcastReserved => exact ⟨_, rfl, unknownCommand_emitsFor_reserved hi⟩

/-- R200, R167: the instruction in the header held emits what the multiplexer gives for the raw bytes. -/
theorem exec_fetch_eq_dispatch (h2 : 2 ≤ s.regs.cnt) :
    exec s.fetch s =
      .next (s.finish (idleRegs s.cfg) (some (dispatch s.cfg s.raw s.crcOk s.input.expFam))) := by
  obtain ⟨valid, hexec, hvalid⟩ := exec_eq_ifCrcOk_emitsFor (i := s.fetch) (decodeWord_wf _) s
  rw [hexec]
  obtain ⟨hok, heq⟩ | ⟨hok, heq⟩ := ifCrcOk_cases s valid
  · rw [heq, hok, hvalid, dispatch_of_crcOk, decodeHeader_raw h2]
  · rw [heq, hok, dispatch, if_pos rfl]

end multiplexer

/-! ## The assembled step function (R177) -/

/-- R160: the registers and the event that each transition gives. -/
def transitionResult (cfg : Config) (g : Regs) (i : Input) : Transition → Regs × Option Event
  | .reset => (idleRegs cfg, none)
  | .idleByte => (firstByteRegs cfg i.inByte, none)
  | .idleWait => (g, none)
  | .append => (appendRegs cfg g i, none)
  | .complete =>
    (idleRegs cfg, some (dispatch cfg (heldBytes g ++ [i.inByte]) (cfg.crc.final g.crc == i.inByte) i.expFam))
  | .recvWait => (recvWaitRegs cfg g i, none)
  | .tmoByte => (firstByteRegs cfg i.inByte, some (timeoutEvent g))
  | .tmoWait => (idleRegs cfg, some (timeoutEvent g))

/-- R177: the assembled step function takes the transition that R160 selects. -/
theorem assembledStep_eq (cfg : Config) (g : Regs) (i : Input) :
    assembledStep cfg g i = transitionResult cfg g i (transitionOf g i) := by
  unfold assembledStep transitionOf
  cases i.rst with
  | true => rfl
  | false =>
    cases g.st with
    | idle => cases i.inValid <;> rfl
    | tmo => cases i.inValid <;> rfl
    | recv =>
      cases i.inValid with
      | false => rfl
      | true =>
        by_cases hc : completes g i.inByte = true
        · rw [if_pos hc]
          exact if_pos ((completes_iff g i.inByte).mp hc)
        · rw [if_neg hc]
          exact if_neg (hc ∘ (completes_iff g i.inByte).mpr)

/-- R160, R167: a step that answers a next state gives the result of its transition. -/
theorem step_eq_transitionResult {s t : State} (h : step s = .next t) :
    (t.regs, t.event) = transitionResult s.cfg s.regs s.input s.transition := by
  obtain ⟨-, ⟨ht, rfl⟩ | ⟨ht, rfl⟩ | ⟨ht, rfl⟩ | ⟨ht, -, rfl⟩ | ⟨ht, hexec⟩ | ⟨ht, rfl⟩ | ⟨ht, -, rfl⟩ |
    ⟨ht, -, rfl⟩⟩ :=
    step_cases h <;> rw [ht]
  case inr.inr.inr.inr.inl =>
    obtain ⟨-, -, -, hc⟩ := completes_of_transition ht
    obtain ⟨h2, -⟩ := (completes_iff _ _).mp hc
    rw [exec_fetch_eq_dispatch h2] at hexec
    cases hexec
    rfl
  all_goals rfl

/-! ## Runs of several steps -/

theorem withEvent_append (n : Nat) (ev : Option Event) (evs evs' : List (Nat × Event)) :
    withEvent n ev (evs ++ evs') = withEvent n ev evs ++ evs' := by
  cases ev <;> rfl

/-- R286: a step and a run after it. -/
theorem runTrace_step {s t u : State} {k : Nat} {evs : List (Nat × Event)} (hstep : step s = .next t)
    (hrun : runTrace k t = .next (u, evs)) : runTrace (k + 1) s = .next (u, withEvent s.stepNo t.event evs) := by
  simp [runTrace, hstep, hrun]

/-- R286: two runs, the second from where the first ends. -/
theorem runTrace_add {m n : Nat} {s t u : State} {evs evs' : List (Nat × Event)} (hm : runTrace m s = .next (t, evs))
    (hn : runTrace n t = .next (u, evs')) : runTrace (m + n) s = .next (u, evs ++ evs') := by
  induction m generalizing s evs with
  | zero => cases hm; rw [Nat.zero_add]; exact hn
  | succ m ih =>
    obtain ⟨s', evs₁, hstep, hrun, rfl⟩ := runTrace_succ_next hm
    rw [Nat.add_right_comm, ← withEvent_append]
    exact runTrace_step hstep (ih hrun)

/-- R286: a run of one step. -/
theorem runTrace_one {s t : State} (hstep : step s = .next t) :
    runTrace 1 s = .next (t, withEvent s.stepNo t.event []) :=
  runTrace_step hstep rfl

/-- R286: a run and a step after it. -/
theorem runTrace_snoc {n : Nat} {s t u : State} {evs : List (Nat × Event)} (hrun : runTrace n s = .next (t, evs))
    (hstep : step t = .next u) : runTrace (n + 1) s = .next (u, evs ++ withEvent t.stepNo u.event []) :=
  runTrace_add hrun (runTrace_one hstep)

/-- R97: a run of `n` steps takes `n` inputs and counts `n` steps. -/
theorem runTrace_inputs_stepNo {n : Nat} {s t : State} {evs : List (Nat × Event)}
    (h : runTrace n s = .next (t, evs)) : t.inputs = s.inputs.drop n ∧ t.stepNo = s.stepNo + n := by
  induction n generalizing s evs with
  | zero => cases h; exact ⟨rfl, rfl⟩
  | succ n ih =>
    obtain ⟨s', evs', hstep, hrun, -⟩ := runTrace_succ_next h
    obtain ⟨next, ev, rfl⟩ := step_eq_finish hstep
    obtain ⟨hinputs, hno⟩ := ih hrun
    refine ⟨?_, ?_⟩
    · rw [hinputs, finish_inputs, List.drop_tail]
    · rw [hno, finish_stepNo, Nat.add_assoc, Nat.add_comm 1]

/-- R177, R27: a good state has runs of every length. -/
theorem exists_runTrace_of_inv {s : State} (k : Nat) (hinv : s.inv = true) :
    ∃ t evs, runTrace k s = .next (t, evs) := by
  induction k generalizing s with
  | zero => exact ⟨s, [], rfl⟩
  | succ k ih =>
    obtain ⟨t, hstep⟩ := exists_step_of_inv hinv
    obtain ⟨u, evs, hrun⟩ := ih (step_inv hinv hstep)
    exact ⟨u, _, runTrace_step hstep hrun⟩

/-! ## What a step of RECV can do -/

theorem partialFrame_of_append {as bs : List Byte} (h : partialFrame (as ++ bs) = true) (hne : as ≠ []) :
    partialFrame as = true := by
  obtain ⟨-, hbound⟩ := (partialFrame_iff _).mp h
  refine (partialFrame_iff as).mpr ⟨List.length_pos_iff.mpr hne, fun h2 => ?_⟩
  rw [List.length_append, List.getD_append _ _ _ _ (by omega)] at hbound
  have := hbound (by omega)
  omega

theorem not_isFrame_of_partialFrame {bs : List Byte} (h : partialFrame bs = true) : isFrame bs = false :=
  isFrame_eq_false_of_partialFrame (bs := []) (by rwa [List.append_nil])

/-- R27, columns RECV and TMO: the bytes held are a partial frame. -/
theorem Regs.HoldsPartial.partialFrame {g : Regs} (hp : g.HoldsPartial) : partialFrame (heldBytes g) = true := by
  have hlen : (heldBytes g).length = g.cnt := Memory.bytes_length g.buf g.cnt
  refine (partialFrame_iff _).mpr ⟨hlen ▸ hp.cntPos, fun h2 => ?_⟩
  rw [hlen] at h2 ⊢
  rw [heldBytes, Memory.bytes_getD (by omega)]
  exact hp.bound h2

/-- R168: good registers in TMO that hold `held`. -/
structure Expired (cfg : Config) (held : List Byte) (g : Regs) : Prop where
  inv : g.inv cfg = true
  st : g.st = .tmo
  held : heldBytes g = held

section recv

variable {s : State} {held : List Byte} {tmr : Nat}

theorem Receiving.not_isFrame {cfg : Config} {g : Regs} (hg : Receiving cfg held tmr g) : isFrame held = false := by
  have hpart := (Regs.holdsPartial_of_inv hg.inv (by simp [hg.st])).partialFrame
  rw [hg.held] at hpart
  exact not_isFrame_of_partialFrame hpart

theorem Receiving.tmr_le {cfg : Config} {g : Regs} (hg : Receiving cfg held tmr g) : tmr ≤ cfg.timeoutTicks := by
  obtain ⟨-, -, htmr⟩ := (Regs.inv_recv_iff hg.st).mp hg.inv
  exact hg.tmr ▸ htmr

/-- R163, R168: the tick that passes the threshold expires the frame. -/
theorem expiry_timerNext_of_lt {cfg : Config} {tmr : Nat} {tick : Bool} (h : cfg.timeoutTicks < tmr + tick.toNat)
    (hle : tmr ≤ cfg.timeoutTicks) : expiry cfg (timerNext cfg tmr tick) = .tmo := by
  cases tick
  · rw [Bool.toNat_false] at h; omega
  · rw [Bool.toNat_true] at h
    exact if_pos (lt_min h (Nat.lt_succ_self _))

/-- R167, R229: the byte that makes up a frame completes it with the event of decodeFrame. -/
theorem step_completes_frame (hwf : s.cfg.wf = true) (hg : Receiving s.cfg held tmr s.regs)
    (hrst : s.input.rst = false) (hvalid : s.input.inValid = true)
    (hframe : isFrame (held ++ [s.input.inByte]) = true) :
    ∃ ev, step s = .next (s.finish (idleRegs s.cfg) (some ev)) ∧ ev.raw = held ++ [s.input.inByte] ∧
      decodeFrame s.cfg (held ++ [s.input.inByte]) s.input.expFam = some ev := by
  obtain ⟨hinv, hst, rfl, -⟩ := hg
  have hc : completes s.regs s.input.inByte = true := (completes_eq_isFrame _ _).trans hframe
  have ht : s.transition = .complete := by simp [State.transition, transitionOf, hrst, hst, hvalid, hc]
  have hstep := step_of_completes hwf hst hrst hvalid hc
  obtain ⟨-, -, hok⟩ := crcCheckValidatesTheFrame s ((State.inv_iff s).mpr ⟨hwf, hinv⟩) ht
  obtain ⟨h2, -⟩ := (completes_iff _ _).mp hc
  refine ⟨_, hstep.trans (exec_fetch_eq_dispatch h2), dispatch_raw .., ?_⟩
  rw [decodeFrame, if_pos hframe, hok]
  rfl

/-- R166, R169, R168: a step of RECV that does not complete the frame and whose tick passes the threshold. -/
theorem step_expiring (hwf : s.cfg.wf = true) (hg : Receiving s.cfg held tmr s.regs) (hrst : s.input.rst = false)
    (hopen : isFrame (held ++ presented [s.input]) = false) (htick : s.cfg.timeoutTicks < tmr + s.input.tick.toNat) :
    ∃ g, step s = .next (s.finish g none) ∧ Expired s.cfg (held ++ presented [s.input]) g := by
  have htmo := expiry_timerNext_of_lt htick hg.tmr_le
  rw [← hg.tmr] at htmo
  rw [presented_singleton] at hopen ⊢
  cases hvalid : s.input.inValid with
  | true =>
    rw [hvalid, if_pos rfl] at hopen
    have hc : completes s.regs s.input.inByte = false := by rw [completes_eq_isFrame, hg.held, hopen]
    refine ⟨_, step_of_recv_byte hwf hg hrst hvalid hc, appendRegs_inv hg.inv hg.st hc, htmo, ?_⟩
    rw [if_pos rfl, ← hg.held]
    exact Memory.bytes_write_end (Regs.inv_buf hg.inv).1 s.regs.cnt s.input.inByte
  | false =>
    rw [if_neg Bool.false_ne_true, List.append_nil]
    exact ⟨_, step_of_recv_gap hwf hg.st hrst hvalid, recvWaitRegs_inv s.input hg.inv hg.st, htmo, hg.held⟩

/-- R165 to R169: a step of RECV without reset completes the frame, or stays in RECV, or expires the frame. -/
theorem step_recv_cases (hwf : s.cfg.wf = true) (hg : Receiving s.cfg held tmr s.regs) (hrst : s.input.rst = false) :
    (∃ ev, step s = .next (s.finish (idleRegs s.cfg) (some ev)) ∧ ev.raw = held ++ presented [s.input] ∧
      isFrame ev.raw = true) ∨
    (∃ g, step s = .next (s.finish g none) ∧
      Receiving s.cfg (held ++ presented [s.input]) (tmr + s.input.tick.toNat) g) ∨
    (∃ g, step s = .next (s.finish g none) ∧ Expired s.cfg (held ++ presented [s.input]) g) := by
  cases hframe : isFrame (held ++ presented [s.input]) with
  | false =>
    obtain hle | hlt := le_or_gt (tmr + s.input.tick.toNat) s.cfg.timeoutTicks
    · exact .inr (.inl (step_receiving hwf hg hrst hframe hle))
    · exact .inr (.inr (step_expiring hwf hg hrst hframe hlt))
  | true =>
    rw [presented_singleton] at hframe ⊢
    cases hvalid : s.input.inValid with
    | false => simp [hvalid, hg.not_isFrame] at hframe
    | true =>
      rw [hvalid, if_pos rfl] at hframe
      obtain ⟨ev, hstep, hraw, -⟩ := step_completes_frame hwf hg hrst hvalid hframe
      exact .inl ⟨ev, hstep, hraw, hraw ▸ hframe⟩

/-- R170, R171: the step after the expiry. -/
theorem step_of_expired (hwf : s.cfg.wf = true) (hg : Expired s.cfg held s.regs) (hrst : s.input.rst = false) :
    step s = .next (s.finish (if s.input.inValid then firstByteRegs s.cfg s.input.inByte else idleRegs s.cfg)
      (some (.err .timeout (addrOf held) held))) := by
  obtain ⟨hinv, hst, rfl⟩ := hg
  exact step_of_tmo hwf hst hrst (cnt_le_of_inv hinv (by simp [hst]))

end recv

/-! ## The inputs of a run -/

theorem noReset_append (is js : List Input) : noReset (is ++ js) = true ↔ noReset is = true ∧ noReset js = true := by
  simp [noReset]

theorem noReset_singleton (i : Input) : noReset [i] = true ↔ i.rst = false := by simp [noReset]

theorem presented_append_byte (is : List Input) {i : Input} (hvalid : i.inValid = true) :
    presented (is ++ [i]) = presented is ++ [i.inByte] := by
  rw [presented_append, presented_singleton, if_pos hvalid]

/-- R97: the input of the next step is the first one to come. -/
theorem input_rst_of_noReset {s : State} {ins rest : List Input} {further : Input}
    (hin : s.inputs = ins ++ further :: rest) (hrst : noReset (ins ++ [further]) = true) : s.input.rst = false := by
  cases ins <;>
  · obtain ⟨hfirst, -⟩ := (noReset_cons _ _).mp hrst
    rw [input_of_cons s hin, hfirst]

theorem input_after {n : Nat} {s t : State} {evs : List (Nat × Event)} {ins rest : List Input} {i : Input}
    (hrun : runTrace n s = .next (t, evs)) (hin : s.inputs = ins ++ i :: rest) (hn : ins.length = n) :
    t.inputs = i :: rest ∧ t.input = i := by
  obtain ⟨hinputs, -⟩ := runTrace_inputs_stepNo hrun
  have hrest : t.inputs = i :: rest := by rw [hinputs, hin, ← hn, List.drop_left]
  exact ⟨hrest, input_of_cons t hrest⟩

/-! ## A frame from its first byte on (R178) -/

/-- R161, R170: the byte that starts a frame, in IDLE or in TMO. -/
theorem runTrace_first_byte {s : State} (hinv : s.inv = true) (hst : s.regs.st = .idle ∨ s.regs.st = .tmo)
    (hrst : s.input.rst = false) (hvalid : s.input.inValid = true) :
    ∃ t, runTrace 1 s = .next (t, pendingTimeout s) ∧ t.regs = firstByteRegs s.cfg s.input.inByte := by
  obtain ⟨hwf, hregs⟩ := (State.inv_iff s).mp hinv
  obtain hst | hst := hst
  · rw [pendingTimeout_of_idle hst]
    exact ⟨_, runTrace_one (step_of_idle_byte hwf hst hrst hvalid), rfl⟩
  · have hstep := step_of_tmo hwf hst hrst (cnt_le_of_inv hregs (by simp [hst]))
    rw [hvalid, if_pos rfl] at hstep
    rw [pendingTimeout_of_tmo hst]
    exact ⟨_, runTrace_one hstep, rfl⟩

/-- R161 to R170: a run over the first byte of a frame and inputs that neither complete nor expire it. -/
theorem runTrace_frame_begun {s : State} {first : Input} {mid rest : List Input} (hinv : s.inv = true)
    (hst : s.regs.st = .idle ∨ s.regs.st = .tmo) (hin : s.inputs = first :: mid ++ rest)
    (hrst : noReset (first :: mid) = true) (hvalid : first.inValid = true)
    (hopen : partialFrame (presented (first :: mid)) = true) (htick : tickCount mid ≤ s.cfg.timeoutTicks) :
    ∃ t, runTrace (mid.length + 1) s = .next (t, pendingTimeout s) ∧
      Receiving s.cfg (presented (first :: mid)) (tickCount mid) t.regs := by
  obtain rfl : s.input = first := input_of_cons s hin
  have hpres : presented (s.input :: mid) = [s.input.inByte] ++ presented mid := by
    rw [← List.singleton_append, presented_append, presented_singleton, if_pos hvalid]
  obtain ⟨hrst, hrstmid⟩ := (noReset_cons _ _).mp hrst
  obtain ⟨u, hfirst, hu⟩ := runTrace_first_byte hinv hst hrst hvalid
  have hcfg := runTrace_cfg hfirst
  obtain ⟨hinputs, -⟩ := runTrace_inputs_stepNo hfirst
  obtain ⟨hwf, -⟩ := (State.inv_iff s).mp hinv
  rw [hpres] at hopen ⊢
  rw [← Nat.zero_add (tickCount mid)] at htick ⊢
  rw [← hcfg] at hwf htick hu ⊢
  obtain ⟨t, hrun, ht⟩ := silentRun_receiving hwf (hu ▸ firstByteRegs_receiving u.cfg s.input.inByte)
    (by rw [hinputs, hin]; rfl) hrstmid hopen htick
  refine ⟨t, ?_, ht⟩
  rw [Nat.add_comm, ← List.append_nil (pendingTimeout s)]
  exact runTrace_add hfirst (hrun.run 0)

/-- R168, R178: with a further step whose tick makes `TIMEOUT_TICKS + 1` and that does not complete the frame, the run
ends in TMO. -/
theorem runTrace_frame_expired {s : State} {first expiring : Input} {mid rest : List Input} (hinv : s.inv = true)
    (hst : s.regs.st = .idle ∨ s.regs.st = .tmo) (hin : s.inputs = first :: mid ++ expiring :: rest)
    (hrst : noReset (first :: mid ++ [expiring]) = true) (hvalid : first.inValid = true) (hexp : expiring.tick = true)
    (htick : tickCount mid = s.cfg.timeoutTicks)
    (hopen : partialFrame (presented (first :: mid ++ [expiring])) = true) :
    ∃ t, runTrace (mid.length + 2) s = .next (t, pendingTimeout s) ∧
      Expired s.cfg (presented (first :: mid ++ [expiring])) t.regs := by
  obtain ⟨hwf, -⟩ := (State.inv_iff s).mp hinv
  obtain ⟨hrst, hexprst⟩ := (noReset_append _ _).mp hrst
  rw [presented_append] at hopen ⊢
  have hne : presented (first :: mid) ≠ [] := by simp [presented, hvalid]
  obtain ⟨t, hrun, ht⟩ :=
    runTrace_frame_begun hinv hst hin hrst hvalid (partialFrame_of_append hopen hne) htick.le
  have hcfg := runTrace_cfg hrun
  obtain ⟨-, rfl⟩ := input_after hrun hin rfl
  rw [← hcfg] at hwf ht htick ⊢
  obtain ⟨g, hstep, hg⟩ := step_expiring hwf ht ((noReset_singleton _).mp hexprst)
    (not_isFrame_of_partialFrame hopen) (by simp [htick, hexp])
  rw [← List.append_nil (pendingTimeout s)]
  exact ⟨_, runTrace_snoc hrun hstep, hg⟩

/-! ## Ticks end every frame (R181) -/

/-- R181: `ev` is of the frame that held the bytes `held`: it reports them first, and it reports a complete frame or is
a TIMEOUT. -/
def ReportsFrame (held : List Byte) (ev : Event) : Prop :=
  held <+: ev.raw ∧ (isFrame ev.raw = true ∨ ev = .err .timeout (addrOf ev.raw) ev.raw)

/-- R181: a run of `n` steps emits an event, and the first one is of the frame that held the bytes `held`. -/
def FirstEventReports (n : Nat) (s : State) (held : List Byte) : Prop :=
  ∃ t k ev later, runTrace n s = .next (t, (k, ev) :: later) ∧ ReportsFrame held ev

section firstEvent

variable {n : Nat} {s : State} {g : Regs} {held : List Byte}

theorem firstEventReports_of_step {ev : Event} (hinv : s.inv = true) (hstep : step s = .next (s.finish g (some ev)))
    (hev : ReportsFrame held ev) : FirstEventReports (n + 1) s held := by
  obtain ⟨t, evs, hrun⟩ := exists_runTrace_of_inv n (step_inv hinv hstep)
  exact ⟨t, _, ev, evs, runTrace_step hstep hrun, hev⟩

theorem firstEventReports_of_silent_step {more : List Byte} (hstep : step s = .next (s.finish g none))
    (h : FirstEventReports n (s.finish g none) (held ++ more)) : FirstEventReports (n + 1) s held := by
  obtain ⟨t, k, ev, later, hrun, hpre, hev⟩ := h
  exact ⟨t, k, ev, later, runTrace_step hstep hrun, (List.prefix_append held more).trans hpre, hev⟩

/-- R170, R171: the step after the expiry is the first with an event. -/
theorem firstEventReports_of_expired (hwf : s.cfg.wf = true) (hg : Expired s.cfg held s.regs)
    (hrst : s.input.rst = false) : FirstEventReports (n + 1) s held :=
  firstEventReports_of_step ((State.inv_iff s).mpr ⟨hwf, hg.inv⟩) (step_of_expired hwf hg hrst)
    ⟨List.prefix_rfl, .inr rfl⟩

end firstEvent

/-- R181, by induction on the inputs: a step of RECV completes the frame, or expires it for the next step to report, or
leaves RECV with its tick counted, and R27 bounds the ticks counted in RECV. -/
theorem firstEventReports_receiving {s : State} {held : List Byte} {tmr : Nat} {ins rest : List Input} {further : Input}
    (hwf : s.cfg.wf = true) (hg : Receiving s.cfg held tmr s.regs) (hin : s.inputs = ins ++ further :: rest)
    (hrst : noReset (ins ++ [further]) = true) (htick : s.cfg.timeoutTicks < tmr + tickCount ins) :
    FirstEventReports (ins.length + 1) s held := by
  induction ins generalizing s held tmr with
  | nil => exact absurd hg.tmr_le (not_le.mpr htick)
  | cons i ins ih =>
    obtain rfl : s.input = i := input_of_cons s hin
    obtain ⟨hrst, hrstrest⟩ := (noReset_cons _ _).mp hrst
    rw [tickCount_cons, ← Nat.add_assoc] at htick
    obtain ⟨ev, hstep, hraw, hframe⟩ | ⟨g, hstep, hg'⟩ | ⟨g, hstep, hg'⟩ := step_recv_cases hwf hg hrst
    · exact firstEventReports_of_step ((State.inv_iff s).mpr ⟨hwf, hg.inv⟩) hstep
        ⟨hraw ▸ List.prefix_append _ _, .inl hframe⟩
    · exact firstEventReports_of_silent_step hstep
        (ih (s := s.finish g none) hwf hg' (by rw [finish_inputs, hin]; rfl) hrstrest htick)
    · exact firstEventReports_of_silent_step hstep (firstEventReports_of_expired (s := s.finish g none) hwf hg'
        (input_rst_of_noReset (by rw [finish_inputs, hin]; rfl) hrstrest))

/-! ## The obligations -/

/-- Settles O49: the frame is begun and held up to its last byte, which completes it with the event of decodeFrame. -/
theorem frameCompletesBeforeTheDeadline : Obligations.FrameCompletesBeforeTheDeadline := by
  intro s first mid last rest hinv hst hin hrst hfirst hlast hframe htick
  obtain ⟨hrst, hlastrst⟩ := (noReset_append _ _).mp hrst
  rw [presented_append_byte _ hlast] at hframe ⊢
  obtain ⟨t, hrun, ht⟩ := runTrace_frame_begun hinv hst hin hrst hfirst (partialFrame_of_isFrame hframe) htick
  have hcfg := runTrace_cfg hrun
  obtain ⟨-, hno⟩ := runTrace_inputs_stepNo hrun
  obtain ⟨hinputs, rfl⟩ := input_after hrun hin rfl
  obtain ⟨hwf, -⟩ := (State.inv_iff s).mp hinv
  rw [← hcfg] at hwf ht ⊢
  obtain ⟨ev, hstep, -, hdecode⟩ := step_completes_frame hwf ht ((noReset_singleton _).mp hlastrst) hlast hframe
  have hend : t.finish (idleRegs t.cfg) (some ev) =
      { t with regs := idleRegs t.cfg, event := some ev, inputs := rest, stepNo := s.stepNo + mid.length + 2 } := by
    simp [State.finish, hinputs, hno, Nat.add_assoc]
  refine ⟨ev, hdecode, ?_⟩
  rw [← hend, Nat.add_assoc, ← hno]
  exact runTrace_snoc hrun hstep

/-- Settles O50: the expired frame is reported by the next step, whatever that brings. -/
theorem frameTimesOutAfterTheDeadline : Obligations.FrameTimesOutAfterTheDeadline := by
  intro s first mid expiring after rest hinv hst hin hrst hfirst hexp htick hopen hafter
  obtain ⟨hwf, -⟩ := (State.inv_iff s).mp hinv
  obtain ⟨t, hrun, ht⟩ := runTrace_frame_expired hinv hst hin hrst hfirst hexp htick hopen
  have hcfg := runTrace_cfg hrun
  obtain ⟨-, hno⟩ := runTrace_inputs_stepNo hrun
  obtain ⟨-, rfl⟩ := input_after (ins := first :: mid ++ [expiring]) hrun (by simpa using hin) (by simp)
  rw [← hcfg] at hwf ht ⊢
  have hreport := runTrace_snoc hrun (step_of_expired hwf ht hafter)
  rw [hno] at hreport
  exact ⟨⟨t, hrun, ht.st⟩, _, hreport, rfl⟩

/-- Settles O51: good registers in RECV are `Receiving` what they hold. -/
theorem ticksEndEveryFrame : Obligations.TicksEndEveryFrame := by
  intro s ins further rest hinv hst hin hrst htick
  obtain ⟨hwf, hregs⟩ := (State.inv_iff s).mp hinv
  exact firstEventReports_receiving hwf ⟨hregs, hst, rfl, rfl⟩ hin hrst (by omega)

/-- Settles O43, by the state and the inputs. -/
theorem goodStatesAlwaysStep : Obligations.GoodStatesAlwaysStep := fun _ => exists_step_of_inv

/-- Settles O45: both take the transition that R160 selects, and give its result. -/
theorem stepIsTheAssembledStepFunction : Obligations.StepIsTheAssembledStepFunction := by
  intro s t hstep
  refine ⟨(step_eq_transitionResult hstep).trans (assembledStep_eq ..).symm, ?_⟩
  obtain ⟨next, ev, rfl⟩ := step_eq_finish hstep
  exact ⟨rfl, rfl, rfl⟩

/-- Settles O19: every instruction ends its frame, and `State.finish` with idleState sets what is listed. -/
theorem everyInstructionEndsItsFrame : Obligations.EveryInstructionEndsItsFrame := by
  intro i s
  obtain ⟨t, hexec, ev, hraw, rfl⟩ := exec_endsFrame i s
  exact ⟨ev, _, hexec, rfl, hraw, rfl, Memory.read_clear, rfl, rfl, rfl, rfl, rfl, rfl, rfl⟩

/-- Settles O29: `decode` reads the two header bytes as the step does. -/
theorem stepRunsTheDecodedInstruction : Obligations.StepRunsTheDecodedInstruction := by
  intro s i hwf hst hrst hvalid hc _ hdec
  obtain rfl : s.fetch = i := by cases hdec; rfl
  exact step_of_completes hwf hst hrst hvalid hc

/-- Settles O31: `completes_iff`, and the bytes held are `cnt`. -/
theorem frameCompletesAtItsDeclaredLength : Obligations.FrameCompletesAtItsDeclaredLength := by
  intro g b
  have hiff := completes_iff g b
  refine ⟨hiff, fun h1 => ?_, fun hc => ?_⟩
  · refine Bool.eq_false_iff.mpr fun hc => ?_
    obtain ⟨h2, -⟩ := hiff.mp hc
    omega
  · obtain ⟨h2, hcnt⟩ := hiff.mp hc
    rw [if_neg (by omega)] at hcnt
    rw [List.length_append, heldBytes, Memory.bytes_length, List.length_singleton, Nat.add_comm 2, ← hcnt]

/-- Settles O33: the cleared buffer with byte 0 written. -/
theorem idleByteStartsAFrame : Obligations.IdleByteStartsAFrame := by
  intro s hwf hrst hst hvalid
  refine ⟨_, step_of_idle_byte hwf hst hrst hvalid, rfl, rfl, rfl, fun a => ?_, rfl, rfl, rfl, rfl⟩
  exact Memory.read_write 0 s.input.inByte a Memory.wf_clear

/-- Settles O34: the transition of R162. -/
theorem idleWithoutByteWaits : Obligations.IdleWithoutByteWaits := fun _ hwf hrst hst hvalid =>
  step_of_idle_wait hwf hst hrst hvalid

/-- Settles O35: the append, with what a canonical buffer reads as after a write. -/
theorem byteIsAppended : Obligations.ByteIsAppended := by
  intro s hwf hbuf hrst hst hvalid hc hcnt
  have hstep := step_of_append hwf hst hrst hvalid hc (Nat.lt_succ_of_le hcnt)
  refine ⟨_, hstep, rfl, rfl, fun a => ?_, rfl, rfl, rfl, rfl, rfl⟩
  exact Memory.read_write s.regs.cnt s.input.inByte a hbuf

/-- Settles O36: the transition of R169. -/
theorem recvWithoutByteCountsTicks : Obligations.RecvWithoutByteCountsTicks := fun _ hwf hrst hst hvalid =>
  ⟨_, step_of_recv_gap hwf hst hrst hvalid, rfl, rfl, rfl, fun _ => rfl, rfl, rfl, rfl, rfl⟩

/-- Settles O37: `step_of_tmo` with a byte. -/
theorem timeoutWithByteStartsANewFrame : Obligations.TimeoutWithByteStartsANewFrame := by
  intro s hwf hrst hst hvalid hcnt
  rw [step_of_tmo hwf hst hrst hcnt, hvalid, if_pos rfl]
  rfl

/-- Settles O38: `step_of_tmo` without a byte. -/
theorem timeoutWithoutByteGoesIdle : Obligations.TimeoutWithoutByteGoesIdle := by
  intro s hwf hrst hst hvalid hcnt
  rw [step_of_tmo hwf hst hrst hcnt, hvalid, if_neg Bool.false_ne_true]
  rfl

end Sys2Proof.Machine

/-! # The registry's lookup (43_dispatch.md R203 to R208, 20_memory.md R53 to R56) -/

namespace Sys2Proof

/-! ## Family codes (R89, R224) -/

theorem famOf_code (f : Family) : famOf f.code = some f := by cases f <;> rfl

theorem famOf_of_five_le : ∀ {fc : BitVec 3}, 5 ≤ fc.toNat → famOf fc = none := by decide

theorem Family.code_injective : Function.Injective Family.code := fun f g h =>
  Option.some.inj (by rw [← famOf_code f, h, famOf_code g])

theorem Family.code_lt_five (f : Family) : f.code.toNat < 5 := by cases f <;> decide

/-! ## Keys and ROM addresses (R53, R206, R207) -/

theorem toNat_romAddress (fam : BitVec 3) (dir : BitVec 1) (cmd : BitVec 3) :
    (romAddress fam dir cmd).toNat = fam.toNat * 16 + dir.toNat * 8 + cmd.toNat := by
  have hdir := dir.isLt
  have hcmd := cmd.isLt
  simp only [romAddress, BitVec.toNat_append]
  rw [← Nat.shiftLeft_add_eq_or_of_lt hdir, ← Nat.shiftLeft_add_eq_or_of_lt hcmd]
  omega

/-- R55: every address is that of a key. -/
theorem exists_romAddress_eq (a : BitVec 7) : ∃ fam dir cmd, romAddress fam dir cmd = a := by
  refine ⟨a.extractLsb' 4 3, a.extractLsb' 3 1, a.extractLsb' 0 3, BitVec.eq_of_toNat_eq ?_⟩
  rw [toNat_romAddress]
  simp only [BitVec.extractLsb'_toNat, Nat.shiftRight_eq_div_pow]
  omega

section key

variable (cfg : Config) {fam : BitVec 3} {dir : BitVec 1} {cmd : BitVec 3} {s : SchemaId}

theorem Config.hasKey_iff :
    cfg.hasKey fam dir cmd s = true ↔ s.fam.code = fam ∧ s.dir = dir ∧ (cfg.cmdOf s).val = cmd.toNat := by
  simp [Config.hasKey, and_assoc]

/-- R207: the number of a schema's key is the ROM address of that key. -/
theorem Config.hasKey_iff_keyOf : cfg.hasKey fam dir cmd s = true ↔ cfg.keyOf s = (romAddress fam dir cmd).toNat := by
  rw [Config.hasKey_iff, toNat_romAddress, Config.keyOf, ← BitVec.toNat_inj, ← BitVec.toNat_inj]
  omega

end key

theorem SchemaId.mem_all (s : SchemaId) : s ∈ SchemaId.all := by cases s <;> decide

/-! ## What a configuration that is not refused has (R7) -/

theorem distinct_iff_nodup (ks : List Nat) : distinct ks = true ↔ ks.Nodup := by
  induction ks with
  | nil => simp [distinct]
  | cons k ks ih => simp [distinct, ih]

theorem Config.configsAtOne_iff (cfg : Config) :
    cfg.configsAtOne = true ↔ ∀ f : Family, (cfg.cmdOf f.configSchema).val = 1 := by
  refine ⟨fun h f => ?_, fun h => by simp [Config.configsAtOne, h]⟩
  have hall : ∀ g ∈ [Family.dio, .aio, .mioDio, .mioAio, .ro], (cfg.cmdOf g.configSchema).val = 1 := by
    simpa [Config.configsAtOne] using h
  exact hall f (by cases f <;> decide)

section wf

variable {cfg : Config} {fam : BitVec 3} {dir : BitVec 1} {cmd : BitVec 3} {s : SchemaId}

theorem Config.wf_iff :
    cfg.wf = true ↔ cfg.crc.wf = true ∧ (SchemaId.all.map cfg.keyOf).Nodup ∧
      (∀ f : Family, (cfg.cmdOf f.configSchema).val = 1) ∧ cfg.sizesAsGiven = true ∧ 1 ≤ cfg.nChannels := by
  simp only [Config.wf, Bool.and_eq_true, distinct_iff_nodup, Config.configsAtOne_iff, decide_eq_true_eq, and_assoc]

theorem Config.nodup_keyOf (hwf : cfg.wf = true) : (SchemaId.all.map cfg.keyOf).Nodup := by
  obtain ⟨-, hnodup, -⟩ := Config.wf_iff.mp hwf
  exact hnodup

/-- R207: no two schemas share a key. -/
theorem Config.eq_of_hasKey {t : SchemaId} (hwf : cfg.wf = true) (hs : cfg.hasKey fam dir cmd s = true)
    (ht : cfg.hasKey fam dir cmd t = true) : s = t :=
  List.inj_on_of_nodup_map (Config.nodup_keyOf hwf) s.mem_all t.mem_all
    (((cfg.hasKey_iff_keyOf).mp hs).trans ((cfg.hasKey_iff_keyOf).mp ht).symm)

theorem Config.sizeOf_mioDioConfig (hwf : cfg.wf = true) : cfg.size .mioDioConfig = 21#5 := by
  obtain ⟨-, -, -, hsizes, -⟩ := Config.wf_iff.mp hwf
  simp only [Config.sizesAsGiven, Bool.and_eq_true, beq_iff_eq] at hsizes
  obtain ⟨⟨⟨hmioDio, -⟩, -⟩, -⟩ := hsizes
  exact hmioDio

/-! ## The registry (R206 to R208) -/

/-- R206: a schema at the key makes it one that the registry searches: a family's code, and a command below 7. -/
theorem Config.registry_of_hasKey (hs : cfg.hasKey fam dir cmd s = true) :
    cfg.registry fam dir cmd = (SchemaId.all.find? (cfg.hasKey fam dir cmd)).map fun t => (t, cfg.size t) := by
  obtain ⟨rfl, -, hcmd⟩ := (cfg.hasKey_iff).mp hs
  refine if_neg (not_or.mpr ⟨s.fam.code_lt_five.not_ge, ?_⟩)
  rintro rfl
  exact (cfg.cmdOf s).isLt.ne hcmd

theorem Config.hasKey_of_registry {size : BitVec 5} (h : cfg.registry fam dir cmd = some (s, size)) :
    cfg.hasKey fam dir cmd s = true ∧ size = cfg.size s := by
  unfold Config.registry at h
  split_ifs at h
  obtain ⟨t, hfind, heq⟩ := Option.map_eq_some_iff.mp h
  cases heq
  exact ⟨List.find?_some hfind, rfl⟩

/-- R207: the schema found at a key is the only one there. -/
theorem Config.registry_eq_some_iff (hwf : cfg.wf = true) {size : BitVec 5} :
    cfg.registry fam dir cmd = some (s, size) ↔ cfg.hasKey fam dir cmd s = true ∧ size = cfg.size s := by
  refine ⟨Config.hasKey_of_registry, ?_⟩
  rintro ⟨hs, rfl⟩
  obtain ⟨t, hfind⟩ := Option.isSome_iff_exists.mp (List.find?_isSome.mpr ⟨s, s.mem_all, hs⟩)
  obtain rfl : t = s := Config.eq_of_hasKey hwf (List.find?_some hfind) hs
  rw [Config.registry_of_hasKey hs, hfind, Option.map_some]

/-- R56: the addresses of the valid entries are the numbers of the schemas' keys. -/
theorem Config.romRead_valid_iff (hwf : cfg.wf = true) (a : BitVec 7) :
    (cfg.romRead a).extractLsb' 10 1 = 1#1 ↔ ∃ s, cfg.keyOf s = a.toNat := by
  obtain ⟨fam, dir, cmd, rfl⟩ := exists_romAddress_eq a
  rw [Config.romRead_romAddress]
  simp only [← Config.hasKey_iff_keyOf]
  cases hreg : cfg.registry fam dir cmd with
  | none =>
    refine iff_of_false (by decide) ?_
    rintro ⟨s, hs⟩
    have hsome := (Config.registry_eq_some_iff hwf).mpr ⟨hs, rfl⟩
    rw [hreg] at hsome
    cases hsome
  | some entry => exact iff_of_true (romWord_some_valid _ _) ⟨entry.1, (Config.hasKey_of_registry hreg).1⟩

end wf

theorem Config.keyOf_lt (cfg : Config) (s : SchemaId) : cfg.keyOf s < 128 := by
  have hfam := s.fam.code_lt_five
  have hdir := s.dir.isLt
  have hcmd := (cfg.cmdOf s).isLt
  unfold Config.keyOf
  omega

/-! ## The obligations about the registry -/

/-- Settles O15: a schema is at the key exactly when its family, direction and command are the key's. -/
theorem lookupFindsTheSchemaAtTheKey : Obligations.LookupFindsTheSchemaAtTheKey := by
  intro cfg f cmd dir s size hwf
  rw [Config.lookup, Config.registry_eq_some_iff hwf, Config.hasKey_iff, Family.code_injective.eq_iff]
  simp only [and_assoc]

/-- Settles O16: the valid addresses are the numbers of the 26 keys, all below 128 and no two equal. -/
theorem romHoldsTwentySixSchemas : Obligations.RomHoldsTwentySixSchemas := by
  intro cfg hwf
  rw [List.countP_eq_length_filter]
  have hperm : ((List.range 128).filter fun a => (cfg.romRead (BitVec.ofNat 7 a)).extractLsb' 10 1 == 1#1).Perm
      (SchemaId.all.map cfg.keyOf) := by
    refine (List.perm_ext_iff_of_nodup (List.nodup_range.filter _) (Config.nodup_keyOf hwf)).mpr fun a => ?_
    rw [List.mem_filter, List.mem_range, beq_iff_eq, Config.romRead_valid_iff hwf, BitVec.toNat_ofNat, List.mem_map]
    constructor
    · rintro ⟨ha, s, hs⟩
      exact ⟨s, s.mem_all, hs.trans (Nat.mod_eq_of_lt ha)⟩
    · rintro ⟨s, -, rfl⟩
      exact ⟨cfg.keyOf_lt s, s, (Nat.mod_eq_of_lt (cfg.keyOf_lt s)).symm⟩
  rw [hperm.length_eq, List.length_map]
  rfl

/-- R204: the config schema of a family is a request of that family. -/
theorem Family.configSchema_fam_dir (f : Family) : f.configSchema.fam = f ∧ f.configSchema.dir = 0#1 := by
  cases f <;> exact ⟨rfl, rfl⟩

theorem Config.lookup_configSchema {cfg : Config} (hwf : cfg.wf = true) (f : Family) :
    cfg.lookup f 1#3 0#1 = some (f.configSchema, cfg.size f.configSchema) := by
  obtain ⟨-, -, hone, -⟩ := Config.wf_iff.mp hwf
  obtain ⟨hfam, hdir⟩ := f.configSchema_fam_dir
  exact (lookupFindsTheSchemaAtTheKey cfg f _ _ _ _ hwf).mpr ⟨hfam, hdir, hone f, rfl⟩

/-- Settles O18: the config schemas are requests at command 1, and R205 gives the size of MIO_DIO's. -/
theorem configCommandFindsTheConfigSchema : Obligations.ConfigCommandFindsTheConfigSchema := by
  intro cfg f hwf
  refine ⟨Config.lookup_configSchema hwf f, ?_⟩
  rw [Config.lookup_configSchema hwf, Family.configSchema, Config.sizeOf_mioDioConfig hwf]

end Sys2Proof

/-! # Instructions and the dispatch multiplexer (43_dispatch.md R200, R211 to R224) -/

namespace Sys2Proof.Machine

/-! ## Behind a right CRC byte -/

/-- R200: an instruction whose CRC byte is right answers its state behind the CRC test. -/
theorem exec_of_crcOk {i : Instr} {s valid : State} (hcrc : s.cfg.crc.final s.regs.crc = s.input.inByte)
    (hexec : exec i s = .next (ifCrcOk s valid)) : exec i s = .next valid := by
  have hok : s.crcOk = true := beq_iff_eq.mpr hcrc
  rw [hexec, ifCrcOk, if_pos hok]

/-- R211 to R217: the rows of the unicast registry commands, each with its command. -/
def unicastRows (addr : BitVec 6) (r : BitVec 1) (len : BitVec 5) : List (Instr × BitVec 3) :=
  [(.data addr r len, 0#3), (.cfg addr r len, 1#3), (.data2 addr r len, 2#3), (.data3 addr r len, 3#3),
    (.data4 addr r len, 4#3), (.data5 addr r len, 5#3), (.data6 addr r len, 6#3)]

/-- R211: the seven rows take the registry path with their own command. -/
theorem exec_unicastRow {addr : BitVec 6} {r : BitVec 1} {len : BitVec 5} {p : Instr × BitVec 3}
    (hp : p ∈ unicastRows addr r len) (s : State) :
    exec p.1 s = .next (ifCrcOk s (dispatchUnicast { addr := addr, r := r, len := len, cmd := p.2 } s)) := by
  simp only [unicastRows, List.mem_cons, List.not_mem_nil, or_false] at hp
  obtain rfl | rfl | rfl | rfl | rfl | rfl | rfl := hp <;> rfl

section unicast

variable {s : State} {h : Hdr1} {f : Family}

theorem dispatchUnicast_of_no_family (hf : famOf s.input.expFam = none) :
    dispatchUnicast h s = unknownCommand (some h.addr) s := by
  simp only [dispatchUnicast, hf]

theorem dispatchUnicast_of_no_schema (hf : famOf s.input.expFam = some f) (hl : s.cfg.lookup f h.cmd h.r = none) :
    dispatchUnicast h s = unknownCommand (some h.addr) s := by
  simp only [dispatchUnicast, hf, hl]

theorem dispatchUnicast_of_size {schema : SchemaId} (hf : famOf s.input.expFam = some f)
    (hl : s.cfg.lookup f h.cmd h.r = some (schema, h.len)) :
    dispatchUnicast h s = deliver (.okUnicast h f schema (payloadOf s.raw) s.raw) s := by
  simp only [dispatchUnicast, hf, hl, if_pos]

end unicast

/-! ## The obligations about the instructions -/

/-- Settles O28: `buf[1] ++ buf[0]` is the word that the step fetches. -/
theorem instructionsRefineTheMultiplexer : Obligations.InstructionsRefineTheMultiplexer := fun _ h2 =>
  exec_fetch_eq_dispatch h2

/-- Settles O21: the registry path delivers a frame whose declared length is the size at its key. -/
theorem unicastFramesAreDelivered : Obligations.UnicastFramesAreDelivered := by
  intro addr r len s f schema hcrc hf p hp hl
  rw [exec_of_crcOk hcrc (exec_unicastRow hp s), dispatchUnicast_of_size hf hl, deliver_eq]
  rfl

/-- Settles O22: the two branches of the registry path that find no schema. -/
theorem unicastWithoutSchemaIsUnknown : Obligations.UnicastWithoutSchemaIsUnknown := by
  intro addr r len s hcrc p hp hcause
  have hunknown :
      dispatchUnicast { addr := addr, r := r, len := len, cmd := p.2 } s = unknownCommand (some addr) s := by
    obtain hfive | ⟨f, hf, hl⟩ := hcause
    · exact dispatchUnicast_of_no_family (famOf_of_five_le hfive)
    · exact dispatchUnicast_of_no_schema hf hl
  rw [exec_of_crcOk hcrc (exec_unicastRow hp s), hunknown, unknownCommand_eq]
  rfl

/-- Settles O24: behind the CRC test the row delivers its header and payload. -/
theorem errorResponseIsModuleError : Obligations.ErrorResponseIsModuleError := fun _ _ _ hcrc =>
  exec_of_crcOk hcrc rfl

/-- Settles O25: behind the CRC test the row raises UNKNOWN_COMMAND with its address. -/
theorem errorRequestIsUnknown : Obligations.ErrorRequestIsUnknown := fun _ _ _ hcrc =>
  exec_of_crcOk hcrc rfl

/-- Settles O26: behind the CRC test the three rows take the broadcast path. -/
theorem definedBroadcastsAreDelivered : Obligations.DefinedBroadcastsAreDelivered := by
  intro r len dp1 s hcrc p hp
  simp only [List.mem_cons, List.not_mem_nil, or_false] at hp
  obtain rfl | rfl | rfl := hp <;> exact exec_of_crcOk hcrc rfl

/-- Settles O27: behind the CRC test the row raises UNKNOWN_COMMAND with no address, its fields unread. -/
theorem reservedBroadcastsAreUnknown : Obligations.ReservedBroadcastsAreUnknown := fun _ _ _ _ _ hcrc =>
  exec_of_crcOk hcrc rfl

end Sys2Proof.Machine

/-! # The frame codec at list level (43_dispatch.md R229 to R231) -/

namespace Sys2Proof.Machine

/-! ## What `encodeFrame` answers (R230) -/

theorem liftEnc_eq_ok_iff {x : Except EncErr (List Byte)} {fr : List Byte} : liftEnc x = .ok fr ↔ x = .ok fr := by
  cases x <;> simp [liftEnc]

section encodeFrame

variable {cfg : Config} {addr len cmd : Nat} {r : BitVec 1} {f : Family} {p : List Byte}

theorem encodeFrame_of_no_schema (hcmd : cmd ≤ 6) (hl : cfg.lookup f (BitVec.ofNat 3 cmd) r = none) :
    encodeFrame cfg (.t1 addr r len cmd) f p = .error .unknownCommand := by
  simp only [encodeFrame, if_pos hcmd, hl]

theorem encodeFrame_of_schema {schema : SchemaId} {size : BitVec 5} (hcmd : cmd ≤ 6)
    (hl : cfg.lookup f (BitVec.ofNat 3 cmd) r = some (schema, size)) :
    encodeFrame cfg (.t1 addr r len cmd) f p =
      if p.length ≠ size.toNat then .error .sizeMismatch else liftEnc (buildFrame cfg (.t1 addr r len cmd) p) := by
  simp only [encodeFrame, if_pos hcmd, hl]

theorem encodeFrame_of_high_cmd (hcmd : 6 < cmd) :
    encodeFrame cfg (.t1 addr r len cmd) f p = liftEnc (buildFrame cfg (.t1 addr r len cmd) p) :=
  if_neg hcmd.not_ge

theorem encodeFrame_broadcast :
    encodeFrame cfg (.t2 addr r len cmd) f p = liftEnc (buildFrame cfg (.t2 addr r len cmd) p) := rfl

/-- R230: a unicast frame is encoded only with a schema at the key whose size is the payload's length. -/
theorem encodeFrame_ok {fr : List Byte} (hcmd : cmd ≤ 6) (henc : encodeFrame cfg (.t1 addr r len cmd) f p = .ok fr) :
    ∃ schema size, cfg.lookup f (BitVec.ofNat 3 cmd) r = some (schema, size) ∧ p.length = size.toNat ∧
      buildFrame cfg (.t1 addr r len cmd) p = .ok fr := by
  cases hl : cfg.lookup f (BitVec.ofNat 3 cmd) r with
  | none =>
    rw [encodeFrame_of_no_schema hcmd hl] at henc
    cases henc
  | some entry =>
    rw [encodeFrame_of_schema hcmd hl] at henc
    split_ifs at henc with hsize
    exact ⟨entry.1, entry.2, rfl, not_not.mp hsize, liftEnc_eq_ok_iff.mp henc⟩

end encodeFrame

/-- Settles O54: the branches of `encodeFrame`, and what the builder answers where a header cannot be encoded. -/
theorem encodeFrameChecksInOrder : Obligations.EncodeFrameChecksInOrder := by
  intro cfg a r len c f p
  refine ⟨encodeFrame_of_no_schema, fun schema size hc hl hne => ?_, fun schema size hc hl heq => ?_,
    encodeFrame_of_high_cmd, encodeFrame_broadcast, fun _ => rfl, fun _ => rfl, fun hc hlen ha => ?_,
    fun hc hlen => ?_, fun hlen => ?_⟩
  · rw [encodeFrame_of_schema hc hl, if_pos hne]
  · rw [encodeFrame_of_schema hc hl, if_neg (not_not.mpr heq)]
  · have hbuild := buildFrame_fits (cfg := cfg) (h := .t1 a r len c) hlen ha hc.le
    exact ⟨_, (encodeFrame_of_high_cmd (by omega)).trans (liftEnc_eq_ok_iff.mpr hbuild)⟩
  · rw [encodeFrame_of_high_cmd (by omega), buildFrame_field (h := .t1 a r len c) hlen (.inr hc)]
    rfl
  · rw [encodeFrame_broadcast, buildFrame_long hlen]
    rfl

/-! ## Decoding a frame that was built (R231) -/

/-- R146, R229: a built frame decodes, behind a right CRC, to the event of the header that was asked for. -/
theorem decodeFrame_of_buildFrame {cfg : Config} {h : HeaderReq} {p fr : List Byte} (fc : BitVec 3)
    (hbuild : buildFrame cfg h p = .ok fr) :
    ∃ hd : Header, hd.toReq = h.withLen p.length ∧ payloadOf fr = p ∧
      decodeFrame cfg fr fc = some (headerEvent cfg fr fc hd) := by
  obtain ⟨b0, b1, henc, hfr, hcrc, hframe, hpayload⟩ := (builtFramesValidate cfg p).1 h fr hbuild
  refine ⟨decodeHeader b0 b1, toReq_decodeHeader_of_encodeHeader henc, hpayload, ?_⟩
  rw [decodeFrame, if_pos hframe, hcrc, dispatch_of_crcOk, hfr]
  rfl

theorem headerEvent_okUnicast {cfg : Config} {raw : List Byte} {f : Family} {h : Hdr1} {schema : SchemaId}
    (hcmd : h.cmd ≠ 7#3) (hl : cfg.lookup f h.cmd h.r = some (schema, h.len)) :
    headerEvent cfg raw f.code (.t1 h) = .okUnicast h f schema (payloadOf raw) raw := by
  simp [headerEvent, hcmd, famOf_code, hl]

/-- Settles O53: the header asked for fits its fields, so the decoded one finds the schema that the encoder found. -/
theorem frameRoundTrip : Obligations.FrameRoundTrip := by
  intro cfg addr r len cmd f p fr hcmd henc
  obtain ⟨schema, size, hl, hsize, hbuild⟩ := encodeFrame_ok hcmd henc
  obtain ⟨hd, hreq, hpayload, hdec⟩ := decodeFrame_of_buildFrame f.code hbuild
  cases hd with
  | t2 h => cases hreq
  | t1 h =>
    injection hreq with haddr hr hlen hhcmd
    have hcmdeq : BitVec.ofNat 3 cmd = h.cmd := by rw [← hhcmd, BitVec.ofNat_toNat, BitVec.setWidth_eq]
    have hsizeeq : size = h.len := BitVec.eq_of_toNat_eq (hsize.symm.trans hlen.symm)
    have hne : h.cmd ≠ 7#3 := BitVec.toNat_ne_iff_ne.mp (hhcmd ▸ (Nat.lt_succ_of_le hcmd).ne)
    rw [hcmdeq, ← hr, hsizeeq] at hl
    refine ⟨h, schema, ?_, haddr, hr, hhcmd, hlen⟩
    rw [hdec, headerEvent_okUnicast hne hl, hpayload]

end Sys2Proof.Machine

/-! # Error events and the platform (60_exceptions.md R240 to R262) -/

namespace Sys2Proof.Machine

/-! ## The address recorded with an error (R242) -/

/-- R73: T is clear exactly when byte0 has bit 6 clear under the mask 0x40. -/
theorem bit6_eq_zero_iff_and_0x40 (b : Byte) : b.extractLsb' 6 1 = 0#1 ↔ b &&& 0x40#8 = 0#8 := by
  refine ⟨and_0x40_eq_zero_of_bit6, fun hmask => ?_⟩
  calc b.extractLsb' 6 1
      = (b &&& 0x40#8).extractLsb' 6 1 := by rw [BitVec.extractLsb'_and]; exact BitVec.and_allOnes.symm
    _ = 0#1 := by rw [hmask]; rfl

/-- R74: ADDR is byte0 under the mask 0x3F. -/
theorem extractLsb'_0_6_eq_and_0x3F (b : Byte) : b.extractLsb' 0 6 = (b &&& 0x3F#8).setWidth 6 := by
  rw [BitVec.setWidth_and, ← BitVec.setWidth_eq_extractLsb' (by decide)]
  exact BitVec.and_allOnes.symm

/-- Settles O55: `addrOf` reads T and ADDR of byte0. -/
theorem errorsRecordTheUnicastAddress : Obligations.ErrorsRecordTheUnicastAddress := by
  refine ⟨rfl, fun b0 bs => ⟨fun hT => ?_, fun hT => ?_⟩⟩
  · rw [addrOf, if_pos ((bit6_eq_zero_iff_and_0x40 b0).mpr hT), extractLsb'_0_6_eq_and_0x3F]
  · rw [addrOf, if_neg (mt (bit6_eq_zero_iff_and_0x40 b0).mp hT)]

/-! ## CRC_MISMATCH and SIZE_MISMATCH (R243, R246) -/

/-- R200, R243: an instruction whose CRC byte is wrong reports it, whatever stands behind its CRC test. -/
theorem exec_of_crc_ne {s : State} (i : Instr) (hcrc : s.cfg.crc.final s.regs.crc ≠ s.input.inByte) :
    exec i s = .next (s.finish (idleRegs s.cfg) (some (.err .crcMismatch (addrOf s.raw) s.raw))) := by
  obtain ⟨valid, hexec, -⟩ := exec_eq_ifCrcOk i s
  obtain ⟨hok, -⟩ | ⟨-, heq⟩ := ifCrcOk_cases s valid
  · exact absurd (beq_iff_eq.mp hok) hcrc
  · rw [hexec, heq]

/-- R165, R167: the raw bytes of a completing step are the `L + 3` bytes of a frame. -/
theorem raw_length_of_completes {s : State} (hc : completes s.regs s.input.inByte = true) :
    s.raw.length = lenOfByte1 (s.regs.buf.read 1) + 3 := by
  obtain ⟨-, -, hlen⟩ := frameCompletesAtItsDeclaredLength s.regs s.input.inByte
  rw [State.raw, lenOfByte1_eq_and, hlen hc]
  omega

/-- Settles O20: the completing step runs the instruction in the header, and every instruction tests the CRC first. -/
theorem wrongCrcReportsMismatch : Obligations.WrongCrcReportsMismatch := by
  refine ⟨fun i s => exec_of_crc_ne i, fun s hwf htr hcrc => ?_⟩
  obtain ⟨hrst, hst, hvalid, hc⟩ := completes_of_transition htr
  exact ⟨raw_length_of_completes hc,
    (step_of_completes hwf hst hrst hvalid hc).trans (exec_of_crc_ne s.fetch hcrc)⟩

/-- R246: the branch of the registry path whose schema has another size. -/
theorem dispatchUnicast_of_wrong_size {s : State} {h : Hdr1} {f : Family} {schema : SchemaId} {size : BitVec 5}
    (hf : famOf s.input.expFam = some f) (hl : s.cfg.lookup f h.cmd h.r = some (schema, size)) (hne : h.len ≠ size) :
    dispatchUnicast h s = raiseError .sizeMismatch (some h.addr) s.raw (idleRegs s.cfg) s := by
  simp only [dispatchUnicast, hf, hl, if_neg hne]

/-- Settles O23: behind a right CRC byte the seven rows reach the size test with their own header. -/
theorem unicastOfWrongSizeIsMismatch : Obligations.UnicastOfWrongSizeIsMismatch := by
  intro addr r len s f schema size hcrc hf hne p hp hl
  rw [exec_of_crcOk hcrc (exec_unicastRow hp s), dispatchUnicast_of_wrong_size hf hl hne, raiseError_eq]
  rfl

/-! ## TIMEOUT (R244) -/

/-- Settles O39: R27 bounds the bytes held in TMO and keeps them short of a frame. -/
theorem timeoutReportsAPartialFrame : Obligations.TimeoutReportsAPartialFrame := by
  intro s t hinv hrst hst hstep
  obtain ⟨hwf, hregs⟩ := (State.inv_iff s).mp hinv
  obtain ⟨hp, -⟩ := (Regs.inv_tmo_iff hst).mp hregs
  rw [step_of_tmo hwf hst hrst hp.cntLe] at hstep
  cases hstep
  exact ⟨rfl, hp.cntPos, hp.cntLe, not_isFrame_of_partialFrame hp.partialFrame, hp.partialFrame⟩

/-! ## When an event is emitted, and of which frame (R251, R253) -/

/-- R160, R251: the transitions that emit an event. -/
theorem transitionResult_event_isSome_iff (cfg : Config) (g : Regs) (i : Input) (tr : Transition) :
    (transitionResult cfg g i tr).2.isSome = true ↔ tr = .complete ∨ tr = .tmoByte ∨ tr = .tmoWait := by
  cases tr <;> simp [transitionResult]

/-- R253: the transition taken in a state reports the bytes held there, with the byte that completes a frame. -/
theorem raw_of_transitionResult {s : State} {e : Event}
    (he : (transitionResult s.cfg s.regs s.input s.transition).2 = some e) :
    e.raw = if s.regs.st = .tmo then heldBytes s.regs else s.raw := by
  obtain ⟨-, htr⟩ | ⟨-, ⟨-, htr⟩ | ⟨hst, htr⟩ | ⟨hst, htr⟩⟩ := transition_cases s <;> rw [htr] at he
  · cases he
  · split_ifs at he <;> cases he
  · rw [hst, if_neg (by decide)]
    split_ifs at he <;> cases he
    exact dispatch_raw ..
  · rw [if_pos hst]
    split_ifs at he <;> cases he <;> rfl

/-- Settles O46: the event of a step is that of its transition. -/
theorem eventsBelongToTheirFrame : Obligations.EventsBelongToTheirFrame := by
  intro s t hstep
  have hevent : t.event = (transitionResult s.cfg s.regs s.input s.transition).2 :=
    congrArg Prod.snd (step_eq_transitionResult hstep)
  rw [hevent]
  exact ⟨transitionResult_event_isSome_iff .., fun e => raw_of_transitionResult⟩

/-! ## The platform (R262) -/

/-- R262: what a platform step that is answered gives. -/
theorem platform_step_eq_some {p q : Platform} {ins : List Input} {evs : List (Option Event)}
    (h : p.step ins = some (q, evs)) :
    ins.length = p.channels.length ∧
    q = { p with channels := List.zipWith (fun g i => (assembledStep p.cfg g i).1) p.channels ins } ∧
    evs = List.zipWith (fun g i => (assembledStep p.cfg g i).2) p.channels ins := by
  unfold Platform.step at h
  split_ifs at h with hguard
  obtain ⟨-, hlen⟩ := hguard
  cases h
  exact ⟨hlen, rfl, rfl⟩

/-- Settles O59: both lists of the answer are built channel by channel. -/
theorem channelsAreIndependent : Obligations.ChannelsAreIndependent := by
  intro p q ins evs hstep
  obtain ⟨hlen, rfl, rfl⟩ := platform_step_eq_some hstep
  refine ⟨rfl, by simp [hlen], by simp [hlen], fun k g i hg hi => ?_⟩
  simp only [List.getElem?_zipWith, hg, hi, and_self]

end Sys2Proof.Machine

/-! # Reset, and where the model stops (70_reset_and_hazards.md R270, R273) -/

namespace Sys2Proof.Machine

/-- Settles O32: the transition of R270, with the registers of idleState (R34). -/
theorem resetDominatesEveryInput : Obligations.ResetDominatesEveryInput := fun _ hwf hrst =>
  ⟨_, step_of_reset hwf hrst, rfl, rfl, rfl, Memory.read_clear, rfl, rfl, rfl, rfl⟩

/-! ## The two stops of a step -/

/-- R50: the step's transition writes to the buffer at index 33 or later, or reads it there for a TIMEOUT report. -/
def State.OverrunsBuffer (s : State) : Prop :=
  (s.transition = .append ∧ bufBytes ≤ s.regs.cnt) ∨
    ((s.transition = .tmoByte ∨ s.transition = .tmoWait) ∧ bufBytes < s.regs.cnt)

section stops

variable {s : State}

/-- R273: a configuration that is not well formed stops the step before any transition. -/
theorem step_of_illFormedConfig (hwf : s.cfg.wf = false) : step s = .refused .illFormedConfig := by
  simp [step, hwf]

/-- R50: the three transitions that access the buffer fault at its end. -/
theorem step_of_overrunsBuffer (hwf : s.cfg.wf = true) (hover : s.OverrunsBuffer) :
    step s = .fault .bufferRange := by
  obtain ⟨ht, hcnt⟩ | ⟨ht | ht, hcnt⟩ := hover
  · simp [step, hwf, ht, appendStep, Nat.not_lt.mpr hcnt]
  · simp [step, hwf, ht, tmoByteStep, timeoutStep, Nat.not_le.mpr hcnt]
  · simp [step, hwf, ht, tmoWaitStep, timeoutStep, Nat.not_le.mpr hcnt]

/-- R160: within the buffer every transition answers a next state; the completing one because every instruction does. -/
theorem exists_step_of_not_overrunsBuffer (hwf : s.cfg.wf = true) (hin : ¬ s.OverrunsBuffer) :
    ∃ t, step s = .next t := by
  cases ht : s.transition with
  | reset | idleByte | idleWait | recvWait => simp [step, hwf, ht]
  | complete =>
    obtain ⟨t, hexec, -⟩ := exec_endsFrame s.fetch s
    exact ⟨t, by simpa [step, hwf, ht] using hexec⟩
  | append =>
    have hcnt : s.regs.cnt < bufBytes := by simpa [State.OverrunsBuffer, ht] using hin
    simp [step, hwf, ht, appendStep, hcnt]
  | tmoByte | tmoWait =>
    have hcnt : s.regs.cnt ≤ bufBytes := by simpa [State.OverrunsBuffer, ht] using hin
    simp [step, hwf, ht, tmoByteStep, tmoWaitStep, timeoutStep, hcnt]

end stops

/-- `step_of_overrunsBuffer` at the boundary of R244: a TIMEOUT report of 34 bytes. -/
theorem step_tmo_holding_34_faults :
    let gap : Input := { rst := false, inValid := false, inByte := 0#8, tick := false, expFam := 0#3 }
    let held34 : Regs := { idleRegs Config.fixture with st := .tmo, cnt := 34 }
    step { State.resetWith Config.fixture [gap] with regs := held34 } = .fault .bufferRange :=
  step_of_overrunsBuffer fixture_wf (.inr ⟨.inr rfl, by decide⟩)

/-- Settles O40: refusal, fault and next state exclude each other, and the configuration and the buffer access select
one of them. -/
theorem stepStopsOnlyOnRefusedConfigOrBufferEnd : Obligations.StepStopsOnlyOnRefusedConfigOrBufferEnd := by
  intro s
  change _ ∧ (_ ↔ s.cfg.wf = true ∧ s.OverrunsBuffer)
  cases hwf : s.cfg.wf with
  | false => simp [step_of_illFormedConfig hwf]
  | true =>
    by_cases hover : s.OverrunsBuffer
    · have hfault := step_of_overrunsBuffer hwf hover
      exact ⟨by simp [hfault], fun _ => ⟨rfl, hover⟩, fun _ => ⟨_, hfault⟩⟩
    · obtain ⟨t, hstep⟩ := exists_step_of_not_overrunsBuffer hwf hover
      simp [hstep, hover]

end Sys2Proof.Machine
